-- ==== Sys2Proof/Word.lean ====
section
/-! DEFINITION. The widths of the block's values (spec 00_scope.md R7, R12; 10_state.md R20). -/

namespace Sys2Proof

/-- A 32-bit word on the host port: write data, read data, or a command word (R50, R70). -/
abbrev Word := BitVec 32

/-- A value of the 16-bit datapath: every operand, result and scratch value (R7). -/
abbrev Value := BitVec 16

/-- A value of the 5-bit operand register OPN (R24). -/
abbrev Len := BitVec 5

/-- A byte lane of a bus word (R55). -/
abbrev Byte := BitVec 8

end Sys2Proof
end

