-- ==== Sys2Proof/Config.lean ====
section
/-! DEFINITION. What is fixed when the block is built: the configuration record CFG (00_scope.md R8) and
the base address the platform gives the window (R11, R51). -/

namespace Sys2Proof

/-- The configuration record CFG (R8). DATA_LEN is derived, not a field (R9). -/
structure Cfg where
  /-- GEN: the generator's bit pattern, leading 1 included. -/
  gen     : Value
  /-- GEN_LEN: the bit length of GEN. -/
  genLen  : Nat
  /-- CODE_LEN: the codeword length. -/
  codeLen : Nat
  /-- ERRORS: the correctable-error count, read by host programs only (R37). -/
  errors  : Nat
deriving DecidableEq, Repr

/-- DATA_LEN = CODE_LEN - GEN_LEN + 1 (R9). -/
def Cfg.dataLen (c : Cfg) : Nat := c.codeLen + 1 - c.genLen

/-- This block's configuration: GEN = 0b10011, GEN_LEN = 5, CODE_LEN = 15, ERRORS = 1 (R8). -/
def Config.cfg : Cfg := { gen := 0b10011, genLen := 5, codeLen := 15, errors := 1 }

/-- Which 32-byte slot of the host bus the platform gives the window. The spec leaves BASE open (R11), so
nothing is known of this number (log entry 8). -/
opaque Config.baseSlot : Nat

/-- BASE, a multiple of 32 (R51). -/
def Config.base : Nat := 32 * Config.baseSlot

end Sys2Proof
end

