-- ==== Sys2Proof/Syntax.lean ====
section
/-! DEFINITION. The command set: one constructor per row of spec/opcode_table.json (30_encoding.md R73). -/

namespace Sys2Proof

/-- The five commands. A command word carries no immediate and no register number, so no constructor
has an argument (30_encoding.md R72). -/
inductive Instr where
  /-- Bitmask of OPN bits (R101). -/
  | mask
  /-- Remainder of OPA by OPB over GF(2) (R106). -/
  | mod
  /-- Systematic BCH encoding of OPA (R122). -/
  | enc
  /-- Syndrome of OPA (R127). -/
  | syn
  /-- Hamming distance of OPA and OPB (R142). -/
  | hdist
deriving DecidableEq, Repr

end Sys2Proof
end

