-- ==== Sys2Proof/WellFormed.lean ====
section
/-! DEFINITION. Well-formedness: which configuration records a model may take (00_scope.md R10), and
which instructions. -/

namespace Sys2Proof

/-- The records a model that takes CFG as a parameter may accept (R10). -/
def Cfg.wellFormed (c : Cfg) : Bool :=
  decide (1 ≤ c.genLen) && decide (c.genLen ≤ 16) && decide (c.genLen ≤ c.codeLen) &&
    decide (c.codeLen ≤ 16) && decide (c.gen.toNat < 2 ^ c.genLen) && c.gen.getLsbD (c.genLen - 1)

/-- Every instruction is well formed: a command has no operand field that could be out of range (R72).
Whether the block accepts it is a question about the operand registers, asked when it runs (R162). -/
def Instr.wellFormed : Instr → Bool
  | .mask => true
  | .mod => true
  | .enc => true
  | .syn => true
  | .hdist => true

end Sys2Proof
end

