-- ==== Sys2Proof/Decode.lean ====
section
/-! DEFINITION. Command words: decoding (30_encoding.md R77), encoding (R73), the command errors they and
the operand checks can raise (60_exceptions.md R160), and the opcode table's numbering of a word's bits. -/

namespace Sys2Proof

/-- Why a command is refused (60_exceptions.md R160). The first two come from the word, the rest from the
operand registers. -/
inductive CmdError where
  /-- A bit of 31:4 of the command word is set (R75). -/
  | rsvd
  /-- The opcode is 0x0 or 0x6 to 0xF (R76). -/
  | illop
  /-- OPN is out of range for the command (R101, R106). -/
  | len
  /-- The bit length of OPB is not OPN (R105). -/
  | divisor
  /-- OPA is wider than the command's input field (R122, R127). -/
  | range
deriving DecidableEq, Repr

/-- The OP field, bits 3:0 (R70). -/
def opField (w : Word) : BitVec 4 := w.extractLsb' 0 4

/-- The RSVD field, bits 31:4 (R70). -/
def rsvdField (w : Word) : BitVec 28 := w.extractLsb' 4 28

/-- `decode`, total on all 2^32 words; a set reserved bit is found before the opcode is looked at (R77). -/
def decode (w : Word) : Except CmdError Instr :=
  if rsvdField w ≠ 0 then .error .rsvd
  else
    match opField w with
    | 0x1#4 => .ok .mask
    | 0x2#4 => .ok .mod
    | 0x3#4 => .ok .enc
    | 0x4#4 => .ok .syn
    | 0x5#4 => .ok .hdist
    | _ => .error .illop

/-- The word of each command, `match(X)` of R74: RSVD is zero and OP is the row's opcode (R73). -/
def encode : Instr → Word
  | .mask => 0x00000001
  | .mod => 0x00000002
  | .enc => 0x00000003
  | .syn => 0x00000004
  | .hdist => 0x00000005

/-- The 32-bit command word whose low `nbits` bits are those of `w` and whose other bits are zero. A command
is exactly one word (R71), so the table's bit numbers are the word's own. -/
def tableWord (nbits w : Nat) : Word := BitVec.ofNat 32 (w % 2 ^ nbits)

/-- The instruction the decoder reads from a word given with the opcode table's bit numbers. -/
def decodeTableWord (nbits w : Nat) : Option Instr :=
  match decode (tableWord nbits w) with
  | .ok i => some i
  | .error _ => none

end Sys2Proof
end

