-- ==== Sys2Proof/Machine/State.lean ====
section
/-! DEFINITION. The block's state (10_state.md R20), the host's side of the port (20_memory.md R50,
70_reset_and_hazards.md R211), and the state after reset (10_state.md R41). -/

namespace Sys2Proof.Machine

/-- The block's architectural state: exactly the record of R20. CFG is not here: it is a constant. -/
structure Block where
  /-- OPA: dividend, information word, received pattern, or first distance operand (R22). -/
  opa    : Value
  /-- OPB: divisor pattern, or second distance operand (R23). -/
  opb    : Value
  /-- OPN: divisor digits, or mask length (R24). -/
  opn    : Len
  /-- RES: the result of the most recent command that completed without error (R25). -/
  res    : Value
  /-- STATUS.VALID: the most recent command completed without error (R29). -/
  valid  : Bool
  /-- STATUS.ERR: the most recent command was refused (R30). -/
  err    : Bool
  /-- STATUS.STICKY: some command was refused since reset or the last clear (R31). -/
  sticky : Bool
  /-- STATUS.ECODE: the code of the most recent command error, 0 if none (R32). -/
  ecode  : BitVec 4
deriving DecidableEq, Repr

/-- The reset values of R41. -/
def Block.reset : Block :=
  { opa := 0, opb := 0, opn := 0, res := 0, valid := false, err := false, sticky := false, ecode := 0 }

/-- A host access: kind, byte offset into the window, size in bytes and, for a write, 32 bits of data (R50). -/
inductive Access where
  | read (off size : Nat)
  | write (off size : Nat) (data : Word)
deriving DecidableEq, Repr

/-- What can reach the block in one step: a host access, or a reset (R21, R200). -/
inductive HostEvent where
  | access (a : Access)
  | reset
deriving DecidableEq, Repr

/-- How the block answers an access (R15, R53, R54, R170). -/
inductive Response where
  /-- The normal response of a write. -/
  | done
  /-- The normal response of a read, with the value read. -/
  | data (v : Word)
  /-- The bus error of an access that is not admitted. -/
  | busError
deriving DecidableEq, Repr

/-- The machine: the block, and the host's side of its one port. `hostQueue` and `responses` are the
model's own fields, not state of the block (log entries 1 and 2). -/
structure State where
  /-- The block's registers. -/
  block     : Block
  /-- The host's accesses, and the platform's resets, not yet performed; the next one first (R62). -/
  hostQueue : List HostEvent
  /-- The answers given so far, the oldest first (R211). -/
  responses : List Response
deriving DecidableEq, Repr

/-- What a run is observed by: both parts of R211's definition. -/
structure Observation where
  /-- What the run's reads returned, bus errors included, the oldest first. -/
  answers  : List Response
  /-- The final state of the record of R20. -/
  endBlock : Block
deriving DecidableEq, Repr

/-- Why the machine stops: never. The spec leaves no behaviour as a hang (93_implementation_defined.md),
and both its error kinds, command errors (R161) and bus errors (R170), let the block go on, so they are next
states and this type has no constructor (log entry 4). -/
inductive Fault where
deriving DecidableEq, Repr

/-- Why an instruction has no meaning. No arm of `exec` and no meaning answers with it. -/
inductive Refusal where
  /-- Raised by an arm of `exec` for a command without a meaning; safe, since the machine stops there.
  Every command has its meaning, so nothing raises it. -/
  | notModelled (mnemonic : String)
deriving DecidableEq, Repr

/-- The machine right after reset: every register at its value of R41, nothing asked of the block yet and
nothing answered (log entries 1 and 2). -/
def State.reset : State := { block := Block.reset, hostQueue := [], responses := [] }

end Sys2Proof.Machine
end

