-- ==== Sys2Proof/Machine/Flags.lean ====
section
/-! DEFINITION. The STATUS register: the error codes, the status word, and every way its fields change
(10_state.md R28 to R32; 60_exceptions.md R160, R161). -/

namespace Sys2Proof.Machine

/-- The code of a command error, as held in STATUS.ECODE (R160). -/
def errorCode : CmdError → BitVec 4
  | .rsvd => 0x1
  | .illop => 0x2
  | .len => 0x3
  | .divisor => 0x4
  | .range => 0x5

/-- One flag as a 32-bit word: 1 or 0. -/
def flagWord (f : Bool) : Word := (BitVec.ofBool f).setWidth 32

/-- What a host read of STATUS returns: ECODE in bits 7:4, STICKY in bit 2, ERR in bit 1, VALID in bit 0,
and zero in the reserved bits (R28). -/
def statusWord (b : Block) : Word :=
  (b.ecode.setWidth 32 <<< 4) ||| (flagWord b.sticky <<< 2) ||| (flagWord b.err <<< 1) ||| flagWord b.valid

/-- A host write of `v` to STATUS: bit 2 set clears STICKY, and nothing else changes (R31). -/
def writeStatus (v : Word) (b : Block) : Block :=
  if v.getLsbD 2 then { b with sticky := false } else b

/-- Command-error entry, the one operation every refused command goes through: VALID, ERR, ECODE and STICKY
record it, and nothing else changes (R161, R164). -/
def refuse (e : CmdError) (b : Block) : Block :=
  { b with valid := false, err := true, ecode := errorCode e, sticky := true }

/-- Completion without error: RES holds the result, VALID, ERR and ECODE say so, STICKY stays (R78, R165). -/
def complete (r : Value) (b : Block) : Block :=
  { b with res := r, valid := true, err := false, ecode := 0 }

end Sys2Proof.Machine
end

