-- ==== Sys2Proof/Machine/Operands.lean ====
section
/-! DEFINITION. The operand checks of the commands (60_exceptions.md R162), the widening and cutting of
operand registers on the 32-bit port (10_state.md R22 to R25), and byte lanes (20_memory.md R55). -/

namespace Sys2Proof.Machine

/-- The divisor check: `digits` is 1 to 16 and is the bit length of the divisor (R105). -/
def divisorOk (divisor : Value) (digits : Nat) : Bool :=
  decide (1 ≤ digits) && decide (digits ≤ 16) && divisor >>> (digits - 1) == 1

/-- MASK's operand check: LEN when OPN is above 16 (R101). -/
def maskCheck (opn : Len) : Option CmdError :=
  if 16 < opn.toNat then some .len else none

/-- MOD's operand checks: LEN for OPN, and only then DIVISOR for OPB (R106, R162). -/
def modCheck (opb : Value) (opn : Len) : Option CmdError :=
  if opn.toNat = 0 ∨ 16 < opn.toNat then some .len
  else if divisorOk opb opn.toNat then none
  else some .divisor

/-- The check that OPA fits an input field of `width` bits: RANGE if a bit at or above `width` is set
(R122 with DATA_LEN, R127 with CODE_LEN). -/
def rangeCheck (width : Nat) (opa : Value) : Option CmdError :=
  if opa >>> width = 0 then none else some .range

/-- `zext_32` of a 16-bit register (R22, R23, R25). -/
def widen (v : Value) : Word := v.setWidth 32

/-- Bits 15:0 of a written word (R22, R23). -/
def toValue (v : Word) : Value := v.setWidth 16

/-- Bits 4:0 of a written word (R24). -/
def toLen (v : Word) : Len := v.setWidth 5

/-- Byte lane `k` of a word: bits 8k+7 to 8k, little-endian (R55). -/
def byteLane (v : Word) (k : Nat) : Byte := v.extractLsb' (8 * k) 8

/-- The word whose four byte lanes are given, lane 0 first (R55). -/
def ofLanes (b0 b1 b2 b3 : Byte) : Word := b3 ++ b2 ++ b1 ++ b0

end Sys2Proof.Machine
end

