-- ==== Sys2Proof/Machine/Ops.lean ====
section
/-! DEFINITION. The register window (20_memory.md R50 to R54), the configuration registers (10_state.md
R36, R37), the one way a command ends (30_encoding.md R78), and the host's side of the port. -/

namespace Sys2Proof.Machine

/-- The eight registers of the window (R52). -/
inductive Reg where
  | opa | opb | opn | cmd | res | status | cfg0 | cfg1
deriving DecidableEq, Repr

/-- The offset of a register (R52). -/
def regOffset : Reg → Nat
  | .opa => 0x00
  | .opb => 0x04
  | .opn => 0x08
  | .cmd => 0x0C
  | .res => 0x10
  | .status => 0x14
  | .cfg0 => 0x18
  | .cfg1 => 0x1C

/-- The register at an offset, if one is mapped there (R52). -/
def regAt (off : Nat) : Option Reg :=
  match off with
  | 0x00 => some .opa
  | 0x04 => some .opb
  | 0x08 => some .opn
  | 0x0C => some .cmd
  | 0x10 => some .res
  | 0x14 => some .status
  | 0x18 => some .cfg0
  | 0x1C => some .cfg1
  | _ => none

/-- The register an access of `size` bytes at `off` reaches, if the access is admitted: its size is 4, its
offset is a multiple of 4, and a register is mapped there (R50). -/
def admittedReg (off size : Nat) : Option Reg :=
  if size = 4 ∧ off % 4 = 0 then regAt off else none

/-- What CFG0 reads: `zext_32(GEN)` (R36). -/
def cfg0Word (c : Cfg) : Word := widen c.gen

/-- What CFG1 reads: ERRORS, DATA_LEN, CODE_LEN and GEN_LEN, each in its field (R37, R53). -/
def cfg1Word (c : Cfg) : Word :=
  (BitVec.ofNat 32 c.errors <<< 24) ||| (BitVec.ofNat 32 c.dataLen <<< 16) |||
    (BitVec.ofNat 32 c.codeLen <<< 8) ||| BitVec.ofNat 32 c.genLen

/-- The value a host read of a register returns; reading changes nothing, so this is all it does (R53). -/
def readReg (r : Reg) (b : Block) : Word :=
  match r with
  | .opa => widen b.opa
  | .opb => widen b.opb
  | .opn => b.opn.setWidth 32
  | .cmd => 0
  | .res => widen b.res
  | .status => statusWord b
  | .cfg0 => cfg0Word Config.cfg
  | .cfg1 => cfg1Word Config.cfg

/-- A host write of `v` to a register other than CMD, whose write runs a command; RES, CFG0 and CFG1 ignore
writes (R54). -/
def writeReg (r : Reg) (v : Word) (b : Block) : Block :=
  match r with
  | .opa => { b with opa := toValue v }
  | .opb => { b with opb := toValue v }
  | .opn => { b with opn := toLen v }
  | .cmd => b
  | .res => b
  | .status => writeStatus v b
  | .cfg0 => b
  | .cfg1 => b

/-- How every decoded command ends (R78): refused with the code its operand check found, or completed with
its result. -/
def finish (check : Option CmdError) (result : Value) (b : Block) : Block :=
  match check with
  | some e => refuse e b
  | none => complete result b

/-- The block changes as `f` says, and the host's side of the port stays. -/
def State.withBlock (s : State) (f : Block → Block) : State := { s with block := f s.block }

/-- The block's answer to the access just performed, after the earlier answers (R211). -/
def State.respond (s : State) (r : Response) : State := { s with responses := s.responses ++ [r] }

/-- Once an access has left the next state `t`, its answer is given; a stop stays a stop. -/
def answer (r : Response) : Host.Outcome State Fault Refusal → Host.Outcome State Fault Refusal
  | .next t => .next (t.respond r)
  | .fault f => .fault f
  | .refused f => .refused f

/-- The offset at which an access to a host bus address reaches the block, if the address lies in the
window BASE to BASE + 0x1F; otherwise the block receives nothing (R51). -/
def windowOffset (addr : Nat) : Option Nat :=
  if Config.base ≤ addr ∧ addr < Config.base + 0x20 then some (addr - Config.base) else none

/-- The answers that are observed: what reads returned, and bus errors, but not the normal responses of writes
(R211, log entry 2). -/
def observedAnswers (rs : List Response) : List Response := rs.filter (fun r => decide (r ≠ .done))

/-- The observation of the run that has led to `s`: what its reads returned, bus errors included, and the
block it has reached (R211). -/
def observation (s : State) : Observation := { answers := observedAnswers s.responses, endBlock := s.block }

/-- The run has ended: the host's access sequence has (R211). -/
def runEnded (s : State) : Bool := s.hostQueue.isEmpty

end Sys2Proof.Machine
end

