-- ==== Sys2Proof/Machine/Remainder.lean ====
section
/-! DEFINITION. The bitmask and remainder functions and the commands MASK and MOD (40_remainder.md). -/

namespace Sys2Proof.Machine

/-- `mask(len)`, for `len` up to 16: computed exactly, then cut to 16 bits, so `mask 16` is 0xFFFF (R100). -/
def mask (len : Nat) : Value := BitVec.ofNat 16 (2 ^ len - 1)

/-- One scan position: if bit `i` of the scratch value is set, XOR its window with the divisor (R104). -/
def gf2Step (divisor : Value) (digits i : Nat) (v : Value) : Value :=
  if v.getLsbD i then
    let s := i - (digits - 1)
    let m := mask digits
    let win := (v >>> s) &&& m
    let new := (win ^^^ divisor) &&& m
    (v &&& ~~~(m <<< s)) ||| (new <<< s)
  else v

/-- The scan over the `n` lowest candidate positions, `digits - 1 + (n - 1)` down to `digits - 1` (R104). -/
def gf2Scan (divisor : Value) (digits : Nat) : Nat → Value → Value
  | 0, v => v
  | n + 1, v => gf2Scan divisor digits n (gf2Step divisor digits (digits - 1 + n) v)

/-- `gf2_mod(dividend, divisor, digits)`, for `digits` 1 to 16: positions 15 down to `digits - 1` (R104). -/
def gf2Mod (dividend divisor : Value) (digits : Nat) : Value :=
  gf2Scan divisor digits (17 - digits) dividend

/-- MASK (R101). -/
def execMask (s : State) : Host.Outcome State Fault Refusal :=
  .next (s.withBlock fun b => finish (maskCheck b.opn) (mask b.opn.toNat) b)

/-- MOD (R106). -/
def execMod (s : State) : Host.Outcome State Fault Refusal :=
  .next (s.withBlock fun b => finish (modCheck b.opb b.opn) (gf2Mod b.opa b.opb b.opn.toNat) b)

end Sys2Proof.Machine
end

