-- ==== Sys2Proof/Machine/Codec.lean ====
section
/-! DEFINITION. The systematic BCH encoder, the syndrome decoder, and the commands ENC and SYN
(41_codec.md). Both functions take CFG as a parameter (00_scope.md R10); the commands use this block's. -/

namespace Sys2Proof.Machine

/-- `encode(w)`, for `w` below 2^DATA_LEN: shift, then XOR the remainder into the low bits (R121). -/
def bchEncode (c : Cfg) (w : Value) : Value :=
  let s := w <<< (c.genLen - 1)
  s ^^^ gf2Mod s c.gen c.genLen

/-- `syndrome(r)`, for `r` below 2^CODE_LEN: the remainder, with no shift before it (R126). -/
def syndrome (c : Cfg) (r : Value) : Value := gf2Mod r c.gen c.genLen

/-- ENC (R122). -/
def execEnc (s : State) : Host.Outcome State Fault Refusal :=
  .next (s.withBlock fun b =>
    finish (rangeCheck Config.cfg.dataLen b.opa) (bchEncode Config.cfg b.opa) b)

/-- SYN (R127). -/
def execSyn (s : State) : Host.Outcome State Fault Refusal :=
  .next (s.withBlock fun b =>
    finish (rangeCheck Config.cfg.codeLen b.opa) (syndrome Config.cfg b.opa) b)

end Sys2Proof.Machine
end

