-- ==== Sys2Proof/Machine/Hamming.lean ====
section
/-! DEFINITION. The Hamming distance function and the command HDIST (42_hamming.md). -/

namespace Sys2Proof.Machine

/-- How many of the `n` lowest bit positions differ (R141). -/
def countDiff (a b : Value) : Nat → Nat
  | 0 => 0
  | n + 1 => countDiff a b n + (if a.getLsbD n != b.getLsbD n then 1 else 0)

/-- `hamming(a, b)`: all 16 positions count (R141). -/
def hamming (a b : Value) : Value := BitVec.ofNat 16 (countDiff a b 16)

/-- HDIST; its operand check never refuses (R142). -/
def execHdist (s : State) : Host.Outcome State Fault Refusal :=
  .next (s.withBlock fun b => finish none (hamming b.opa b.opb) b)

end Sys2Proof.Machine
end

