-- ==== Sys2Proof/Machine/Dispatch.lean ====
section
/-! DEFINITION. What each command does: one arm per constructor, each one call of its meaning. -/

namespace Sys2Proof.Machine

def exec (i : Instr) (s : State) : Host.Outcome State Fault Refusal :=
  match i with
  | .mask => Sys2Proof.Machine.execMask s
  | .mod => Sys2Proof.Machine.execMod s
  | .enc => Sys2Proof.Machine.execEnc s
  | .syn => Sys2Proof.Machine.execSyn s
  | .hdist => Sys2Proof.Machine.execHdist s

end Sys2Proof.Machine
end

