-- ==== Sys2Proof/Machine/Access.lean ====
section
/-! DEFINITION. Performing one host access (20_memory.md R50, R53, R54), running the command a CMD write
carries (30_encoding.md R78), and the reset (70_reset_and_hazards.md R200). -/

namespace Sys2Proof.Machine

/-- `RunCommand(w)` (R78): a word that is no command is refused with the code its decoding found, and any
other runs its instruction, which makes that instruction's operand checks. -/
def runCommand (w : Word) (s : State) : Host.Outcome State Fault Refusal :=
  match decode w with
  | .ok i => exec i s
  | .error e => .next (s.withBlock (refuse e))

/-- An admitted write of `v` to register `r`, before its response (R54). -/
def performWrite (r : Reg) (v : Word) (s : State) : Host.Outcome State Fault Refusal :=
  match r with
  | .cmd => runCommand v s
  | .opa => .next (s.withBlock (writeReg .opa v))
  | .opb => .next (s.withBlock (writeReg .opb v))
  | .opn => .next (s.withBlock (writeReg .opn v))
  | .res => .next (s.withBlock (writeReg .res v))
  | .status => .next (s.withBlock (writeReg .status v))
  | .cfg0 => .next (s.withBlock (writeReg .cfg0 v))
  | .cfg1 => .next (s.withBlock (writeReg .cfg1 v))

/-- One host access with its response. An access that is not admitted changes nothing and is answered with
a bus error, before any command error could arise (R170, R171). -/
def performAccess (a : Access) (s : State) : Host.Outcome State Fault Refusal :=
  match a with
  | .read off size =>
    match admittedReg off size with
    | some r => .next (s.respond (.data (readReg r s.block)))
    | none => .next (s.respond .busError)
  | .write off size v =>
    match admittedReg off size with
    | some r => answer .done (performWrite r v s)
    | none => .next (s.respond .busError)

/-- One event. A reset sets every register to its reset value, performs no access and gives no answer
(R200); what the host has asked and been told stays (log entry 6). -/
def performEvent (e : HostEvent) (s : State) : Host.Outcome State Fault Refusal :=
  match e with
  | .access a => performAccess a s
  | .reset => .next (s.withBlock fun _ => Block.reset)

/-- The next host event, taken off the queue and performed as one atomic step (R58, R62). With none waiting
the block holds its state (R180; log entry 3). -/
def performNext (s : State) : Host.Outcome State Fault Refusal :=
  match s.hostQueue with
  | [] => .next s
  | e :: rest => performEvent e { s with hostQueue := rest }

end Sys2Proof.Machine
end

