-- ==== Sys2Proof/Machine/HostProgram.lean ====
section
/-! DEFINITION. The notation of host programs and the pseudo-instructions (30_encoding.md R79, R80), as the
accesses they stand for. -/

namespace Sys2Proof.Machine

/-- `sw REG, imm32` (R79). -/
def sw (r : Reg) (v : Word) : HostEvent := .access (.write (regOffset r) 4 v)

/-- `lw REG` (R79). -/
def lw (r : Reg) : HostEvent := .access (.read (regOffset r) 4)

/-- `cmd X`: a write of the command's word to CMD (R79). -/
def cmd (i : Instr) : HostEvent := sw .cmd (encode i)

/-- `MASK n` (R80). -/
def pseudoMask (n : Word) : List HostEvent := [sw .opn n, cmd .mask]

/-- `MOD a, d, n` (R80). -/
def pseudoMod (a d n : Word) : List HostEvent := [sw .opa a, sw .opb d, sw .opn n, cmd .mod]

/-- `ENC w` (R80). -/
def pseudoEnc (w : Word) : List HostEvent := [sw .opa w, cmd .enc]

/-- `SYN r` (R80). -/
def pseudoSyn (r : Word) : List HostEvent := [sw .opa r, cmd .syn]

/-- `HDIST a, b` (R80). -/
def pseudoHdist (a b : Word) : List HostEvent := [sw .opa a, sw .opb b, cmd .hdist]

/-- `CLRSTICKY` (R80). -/
def clrSticky : List HostEvent := [sw .status 0x00000004]

end Sys2Proof.Machine
end

