-- ==== Sys2Proof/Machine/Step.lean ====
section
/-! DEFINITION. One step of the machine: one host access or one reset (10_state.md R21). -/

namespace Sys2Proof.Machine

/-- One step: the next host event is performed. -/
def step (s : State) : Host.Outcome State Fault Refusal := performNext s

/-- The state in which the host's next access is a write of the given word to CMD, which is how a command
comes to the block (R27, R35; log entry 5). -/
def State.withFetchWord (s : State) (nbits w : Nat) : State :=
  { s with hostQueue := sw .cmd (tableWord nbits w) :: s.hostQueue }

end Sys2Proof.Machine
end

