-- ==== Sys2Proof/Safety.lean ====
section
/-! DEFINITION. The terms the claims use: the command checks and RunCommand in the spec's own words
(60_exceptions.md R162, 30_encoding.md R78), the STATUS invariants (10_state.md R33), a value read as a
polynomial (00_scope.md R13), and what a host may trust (70_reset_and_hazards.md R207). -/

namespace Sys2Proof.Machine

/-- `check(w, OPA, OPB, OPN)` line by line as R162 writes it: the code of the first error that applies, or 0.
The machine does not use it; the claim that the machine agrees with it does. -/
def specCheck (w : Word) (opa opb : Value) (opn : Len) : BitVec 4 :=
  if w >>> 4 ≠ 0 then 0x1
  else if w &&& 0xF = 0 ∨ 5 < (w &&& 0xF).toNat then 0x2
  else if w &&& 0xF = 1 ∧ 16 < opn.toNat then 0x3
  else if w &&& 0xF = 2 ∧ (opn = 0 ∨ 16 < opn.toNat) then 0x3
  else if w &&& 0xF = 2 ∧ opb >>> (opn.toNat - 1) ≠ 1 then 0x4
  else if w &&& 0xF = 3 ∧ opa >>> Config.cfg.dataLen ≠ 0 then 0x5
  else if w &&& 0xF = 4 ∧ opa >>> Config.cfg.codeLen ≠ 0 then 0x5
  else 0x0

/-- `result(decode(w), OPA, OPB, OPN)` for an accepted word, by the table of R72. -/
def specResult (w : Word) (opa opb : Value) (opn : Len) : Value :=
  if w = 1 then mask opn.toNat
  else if w = 2 then gf2Mod opa opb opn.toNat
  else if w = 3 then bchEncode Config.cfg opa
  else if w = 4 then syndrome Config.cfg opa
  else hamming opa opb

/-- `RunCommand(w)` line by line as R78 writes it. -/
def specRunCommand (w : Word) (b : Block) : Block :=
  if specCheck w b.opa b.opb b.opn ≠ 0 then
    { b with valid := false, err := true, ecode := specCheck w b.opa b.opb b.opn, sticky := true }
  else
    { b with res := specResult w b.opa b.opb b.opn, valid := true, err := false, ecode := 0 }

/-- What the STATUS fields always meet, whatever the host does (R33), with the codes of R160 the only ones. -/
def StatusInv (b : Block) : Prop :=
  ¬(b.valid = true ∧ b.err = true) ∧ (b.ecode = 0 ↔ b.err = false) ∧ b.ecode.toNat ≤ 5

/-- ERR implies STICKY: it holds until the host clears STICKY (R33). -/
def StickyInv (b : Block) : Prop := b.err = true → b.sticky = true

/-- The polynomial over GF(2) a value stands for: its coefficient of `x^k` is bit `k` (R13). -/
def IsPoly (v : Value) (p : Polynomial (ZMod 2)) : Prop :=
  ∀ k, p.coeff k = if v.getLsbD k then 1 else 0

/-- The event writes `v` to `r`, as an admitted access of 4 bytes at the register's offset (R50). -/
def Writes (e : HostEvent) (r : Reg) (v : Word) : Prop :=
  e = .access (.write (regOffset r) 4 v)

/-- The event is a host write that clears STICKY: bit 2 of a word written to STATUS is set (R31). -/
def ClearsSticky (e : HostEvent) : Prop := ∃ v, Writes e .status v ∧ v.getLsbD 2 = true

/-- The event carries a command (R35). -/
def IsCommand (e : HostEvent) : Prop := ∃ w, Writes e .cmd w

/-- A host may take RES for the result of its latest command (R207). -/
def resultTrusted (b : Block) : Prop := b.valid = true

end Sys2Proof.Machine
end

