-- ==== Sys2Proof/Certificates/Slice0/Obligations.lean ====
section
/-! DEFINITION. The statements for the provers, from the numbered rules of spec/. Each is about every state
and every operand, in states no run reaches too, unless it says otherwise.

How a statement presents an access and its answer is the model's own: the access stands first in `hostQueue` and
the answer is appended to `responses` (log entries 1 and 2). The rules cited are cited for what the block does and
answers, not for how these two lists are kept. -/

open Sys2Proof Sys2Proof.Machine

/-! ## The commands: each completes with its own effect, and is refused exactly where its rule says -/

/-- R101. Where OPN is at most 16, MASK completes: RES holds 2^OPN - 1, VALID, ERR and ECODE say so, and nothing
else changes; above 16 it is refused with LEN. Its word is 0x00000001. -/
def Obligations.MaskFollowsItsRule : Prop :=
  encode .mask = 0x00000001 ∧ decode 0x00000001 = .ok .mask ∧
  ∀ s : State,
    (s.block.opn.toNat ≤ 16 → ∃ r : Value, r.toNat = 2 ^ s.block.opn.toNat - 1 ∧
      exec .mask s = .next { s with block :=
        { s.block with res := r, valid := true, err := false, ecode := 0 } }) ∧
    (16 < s.block.opn.toNat →
      exec .mask s = .next { s with block :=
        { s.block with valid := false, err := true, ecode := 0x3, sticky := true } })

/-- R106. MOD completes with gf2_mod(OPA, OPB, OPN) where OPN is 1 to 16 and OPB >> (OPN-1) is 1; it is refused
with LEN for OPN 0 or above 16, and only otherwise with DIVISOR. With it the rule's corner cases: OPA = 0 and
OPA = OPB give 0, an OPA below the divisor stays, OPN = 1 with OPB = 1 gives 0, OPN = 16 does at
most one XOR, a zero divisor is never accepted, and the example. -/
def Obligations.ModFollowsItsRule : Prop :=
  encode .mod = 0x00000002 ∧ decode 0x00000002 = .ok .mod ∧
  (∀ s : State,
    (1 ≤ s.block.opn.toNat → s.block.opn.toNat ≤ 16 → s.block.opb >>> (s.block.opn.toNat - 1) = 1 →
      exec .mod s = .next { s with block :=
        { s.block with res := gf2Mod s.block.opa s.block.opb s.block.opn.toNat,
                       valid := true, err := false, ecode := 0 } }) ∧
    (s.block.opn.toNat = 0 ∨ 16 < s.block.opn.toNat →
      exec .mod s = .next { s with block :=
        { s.block with valid := false, err := true, ecode := 0x3, sticky := true } }) ∧
    (1 ≤ s.block.opn.toNat → s.block.opn.toNat ≤ 16 → s.block.opb >>> (s.block.opn.toNat - 1) ≠ 1 →
      exec .mod s = .next { s with block :=
        { s.block with valid := false, err := true, ecode := 0x4, sticky := true } })) ∧
  (∀ (a d : Value) (n : Nat), 1 ≤ n → n ≤ 16 → d >>> (n - 1) = 1 →
    gf2Mod 0 d n = 0 ∧ gf2Mod d d n = 0 ∧ (a.toNat < 2 ^ (n - 1) → gf2Mod a d n = a) ∧ d ≠ 0) ∧
  (∀ a : Value, gf2Mod a 1 1 = 0) ∧
  (∀ a d : Value, d >>> 15 = 1 → gf2Mod a d 16 = if a.getLsbD 15 = true then a ^^^ d else a) ∧
  gf2Mod 0x0010 0x0013 5 = 0x0003

/-- R122. ENC completes with encode(OPA) where OPA is below 2^DATA_LEN = 0x0800, and is refused with RANGE from
there up, with the rule's corner values and example. -/
def Obligations.EncFollowsItsRule : Prop :=
  encode .enc = 0x00000003 ∧ decode 0x00000003 = .ok .enc ∧
  (∀ s : State,
    (s.block.opa.toNat < 0x0800 →
      exec .enc s = .next { s with block :=
        { s.block with res := bchEncode Config.cfg s.block.opa, valid := true, err := false, ecode := 0 } }) ∧
    (0x0800 ≤ s.block.opa.toNat →
      exec .enc s = .next { s with block :=
        { s.block with valid := false, err := true, ecode := 0x5, sticky := true } })) ∧
  bchEncode Config.cfg 0x0000 = 0x0000 ∧ bchEncode Config.cfg 0x07FF = 0x7FFF ∧
  bchEncode Config.cfg 0x0001 = 0x0013

/-- R127. SYN completes with syndrome(OPA) where OPA is below 2^CODE_LEN = 0x8000, and is refused with RANGE
from there up, with the rule's corner values and example. -/
def Obligations.SynFollowsItsRule : Prop :=
  encode .syn = 0x00000004 ∧ decode 0x00000004 = .ok .syn ∧
  (∀ s : State,
    (s.block.opa.toNat < 0x8000 →
      exec .syn s = .next { s with block :=
        { s.block with res := syndrome Config.cfg s.block.opa, valid := true, err := false, ecode := 0 } }) ∧
    (0x8000 ≤ s.block.opa.toNat →
      exec .syn s = .next { s with block :=
        { s.block with valid := false, err := true, ecode := 0x5, sticky := true } })) ∧
  (∀ w : Value, w.toNat < 0x0800 → syndrome Config.cfg (bchEncode Config.cfg w) = 0) ∧
  (∀ r : Value, r.toNat < 16 → syndrome Config.cfg r = r) ∧
  syndrome Config.cfg 0x7FFF = 0 ∧ syndrome Config.cfg 0x4000 = 0x0009 ∧ syndrome Config.cfg 0x0093 = 0x000B

/-- R142. HDIST completes from every state: RES holds the number of the 16 positions at which OPA and OPB
differ, and nothing else changes but VALID, ERR and ECODE. -/
def Obligations.HdistFollowsItsRule : Prop :=
  encode .hdist = 0x00000005 ∧ decode 0x00000005 = .ok .hdist ∧
  ∀ s : State, ∃ r : Value,
    r.toNat = ((Finset.range 16).filter
      (fun k => s.block.opa.getLsbD k ≠ s.block.opb.getLsbD k)).card ∧
    exec .hdist s = .next { s with block :=
      { s.block with res := r, valid := true, err := false, ecode := 0 } }

/-- The frame of all five commands (R22 to R24, R31, R161, R163): from every state, whichever way the command
ends, OPA, OPB, OPN, the host's queue and its answers stay; a refusal leaves RES too; only a refusal raises
STICKY, and no command clears it. -/
def Obligations.CommandFrame : Prop :=
  ∀ (i : Instr) (s t : State), exec i s = .next t →
    t.block.opa = s.block.opa ∧ t.block.opb = s.block.opb ∧ t.block.opn = s.block.opn ∧
    t.hostQueue = s.hostQueue ∧ t.responses = s.responses ∧
    ((t.block.err = true ∧ t.block.valid = false ∧ t.block.sticky = true ∧ t.block.res = s.block.res) ∨
     (t.block.err = false ∧ t.block.valid = true ∧ t.block.sticky = s.block.sticky))

/-- R34. No command's outcome depends on STATUS or on RES: two states with the same operand registers give the
same verdict, the same code and, where the command is accepted, the same result. -/
def Obligations.CommandsIgnoreStatusAndResult : Prop :=
  ∀ (i : Instr) (s u : State),
    s.block.opa = u.block.opa → s.block.opb = u.block.opb → s.block.opn = u.block.opn →
    ∃ s' u', exec i s = .next s' ∧ exec i u = .next u' ∧
      s'.block.valid = u'.block.valid ∧ s'.block.err = u'.block.err ∧ s'.block.ecode = u'.block.ecode ∧
      (s'.block.valid = true → s'.block.res = u'.block.res)

/-! ## The functions and their laws -/

/-- R100. For len up to 16, `mask(len)` has exactly its low `len` bits set, and is 2^len - 1. -/
def Obligations.MaskHasItsLowBits : Prop :=
  ∀ len : Nat, len ≤ 16 →
    (mask len).toNat = 2 ^ len - 1 ∧ ∀ k < 16, (mask len).getLsbD k = decide (k < len)

/-- R104. The engine is the scan of the rule's pseudocode, positions 15 down to digits - 1, written as a fold
over the list of positions with the window arithmetic spelled out; and the final `& m` has no effect on a divisor
that passes its check. -/
def Obligations.RemainderIsTheScan : Prop :=
  ∀ (a d : Value) (n : Nat), 1 ≤ n → n ≤ 16 →
    (divisorOk d n = true → ∀ v : Value,
      (((v &&& mask n) ^^^ d) &&& mask n) = ((v &&& mask n) ^^^ d)) ∧
    gf2Mod a d n =
      (((List.range (17 - n)).map (fun j => n - 1 + j)).reverse).foldl
        (fun (v : Value) (i : Nat) =>
          let m : Value := BitVec.ofNat 16 (2 ^ n - 1)
          let s := i - (n - 1)
          if v.getLsbD i = true then
            (v &&& ~~~(m <<< s)) ||| (((((v >>> s) &&& m) ^^^ d) &&& m) <<< s)
          else v) a

/-- R105. The divisor check says that the bit length of the divisor is `digits`: bit digits - 1 is set and none
above it. With it the rule's example of what the scan gives for a divisor that fails the check. -/
def Obligations.DivisorCheckIsBitLength : Prop :=
  (∀ (d : Value) (n : Nat), divisorOk d n = true ↔
    1 ≤ n ∧ n ≤ 16 ∧ d.getLsbD (n - 1) = true ∧ ∀ k, n ≤ k → d.getLsbD k = false) ∧
  gf2Mod 0x8000 0b00011 5 = 0x9AF1

/-- R107. Every accepted MOD leaves a result below 2^(OPN-1). -/
def Obligations.ModResultIsBelowDivisorDegree : Prop :=
  ∀ s : State, divisorOk s.block.opb s.block.opn.toNat = true →
    ∃ t, exec .mod s = .next t ∧ t.block.valid = true ∧ t.block.res.toNat < 2 ^ (s.block.opn.toNat - 1)

/-- R108. A dividend below 2^(digits-1) is its own remainder. -/
def Obligations.RemainderFixesSmallDividends : Prop :=
  ∀ (a d : Value) (n : Nat), 1 ≤ n → n ≤ 16 → a.toNat < 2 ^ (n - 1) → gf2Mod a d n = a

/-- R109. The engine computes polynomial division over GF(2): for a divisor that passes its check, the result,
read as a polynomial, is the one polynomial of degree below digits - 1 that differs from the dividend by a
multiple of the divisor. -/
def Obligations.RemainderIsPolynomialRemainder : Prop :=
  ∀ (a d : Value) (n : Nat) (pa pd : Polynomial (ZMod 2)),
    divisorOk d n = true → IsPoly a pa → IsPoly d pd →
    ∃ r : Polynomial (ZMod 2), IsPoly (gf2Mod a d n) r ∧
      (r.degree < ((n - 1 : Nat) : WithBot ℕ) ∧ ∃ q, pa = q * pd + r) ∧
      ∀ r' : Polynomial (ZMod 2), r'.degree < ((n - 1 : Nat) : WithBot ℕ) → (∃ q, pa = q * pd + r') → r' = r

/-- R110. For a fixed accepted divisor the remainder is linear. -/
def Obligations.RemainderIsLinear : Prop :=
  ∀ (d : Value) (n : Nat), divisorOk d n = true →
    gf2Mod 0 d n = 0 ∧ ∀ a b : Value, gf2Mod (a ^^^ b) d n = gf2Mod a d n ^^^ gf2Mod b d n

/-- R123. The code is systematic, for every configuration a model may take: the high bits of the codeword are
the information word and its low bits are the remainder. -/
def Obligations.EncodingIsSystematic : Prop :=
  ∀ (c : Cfg) (w : Value), c.wellFormed = true → w.toNat < 2 ^ c.dataLen →
    bchEncode c w >>> (c.genLen - 1) = w ∧
    bchEncode c w &&& mask (c.genLen - 1) = gf2Mod (w <<< (c.genLen - 1)) c.gen c.genLen

/-- R124. A codeword's syndrome is 0, for every configuration a model may take; and on this block, ENC
followed by SYN of its result completes with RES = 0 from every state whose OPA is an information word. -/
def Obligations.EncodedWordHasZeroSyndrome : Prop :=
  (∀ (c : Cfg) (w : Value), c.wellFormed = true → w.toNat < 2 ^ c.dataLen →
    syndrome c (bchEncode c w) = 0) ∧
  (∀ s : State, s.block.opa.toNat < 2 ^ Config.cfg.dataLen →
    ∃ t u, exec .enc s = .next t ∧ t.block.valid = true ∧
      exec .syn { t with block := { t.block with opa := t.block.res } } = .next u ∧
      u.block.valid = true ∧ u.block.res = 0)

/-- R125. Distinct information words have distinct codewords, and the smallest distance between two distinct
codewords is 3. -/
def Obligations.MinimumDistanceIsThree : Prop :=
  (∀ w w' : Value, w.toNat < 2 ^ 11 → w'.toNat < 2 ^ 11 →
    bchEncode Config.cfg w = bchEncode Config.cfg w' → w = w') ∧
  (∀ w w' : Value, w.toNat < 2 ^ 11 → w'.toNat < 2 ^ 11 → w ≠ w' →
    3 ≤ (hamming (bchEncode Config.cfg w) (bchEncode Config.cfg w')).toNat) ∧
  (∃ w w' : Value, w.toNat < 2 ^ 11 ∧ w'.toNat < 2 ^ 11 ∧ w ≠ w' ∧
    (hamming (bchEncode Config.cfg w) (bchEncode Config.cfg w')).toNat = 3)

/-- R128. The syndrome of a codeword with an error is the syndrome of the error, for every configuration a model
may take, so an error that is itself a codeword goes undetected. -/
def Obligations.SyndromeSeesOnlyTheError : Prop :=
  ∀ (c : Cfg) (w e : Value), c.wellFormed = true → w.toNat < 2 ^ c.dataLen → e.toNat < 2 ^ c.codeLen →
    syndrome c (bchEncode c w ^^^ e) = syndrome c e ∧
    ((∃ x : Value, x.toNat < 2 ^ c.dataLen ∧ e = bchEncode c x) → syndrome c (bchEncode c w ^^^ e) = 0)

/-- R129. The 15 single-bit patterns have 15 distinct nonzero syndromes. -/
def Obligations.SingleErrorSyndromesDiffer : Prop :=
  ∀ i : Nat, i < 15 → syndrome Config.cfg ((1 : Value) <<< i) ≠ 0 ∧
    ∀ j : Nat, j < 15 → syndrome Config.cfg ((1 : Value) <<< i) = syndrome Config.cfg ((1 : Value) <<< j) → i = j

/-- From R128 and R129, as program P5 uses them: one flipped bit in any codeword is detected, its syndrome is
that of position i and of no other, and flipping position j restores a codeword of w exactly when the syndrome is
that of j. -/
def Obligations.SingleErrorIsCorrectable : Prop :=
  ∀ (w : Value) (i j : Nat), w.toNat < 2 ^ 11 → i < 15 → j < 15 →
    syndrome Config.cfg (bchEncode Config.cfg w ^^^ ((1 : Value) <<< i)) ≠ 0 ∧
    (syndrome Config.cfg (bchEncode Config.cfg w ^^^ ((1 : Value) <<< i)) = syndrome Config.cfg ((1 : Value) <<< j) ↔
      i = j) ∧
    (syndrome Config.cfg (bchEncode Config.cfg w ^^^ ((1 : Value) <<< i)) = syndrome Config.cfg ((1 : Value) <<< j) ↔
      ((bchEncode Config.cfg w ^^^ ((1 : Value) <<< i)) ^^^ ((1 : Value) <<< j)) >>> 4 = w ∧
      syndrome Config.cfg ((bchEncode Config.cfg w ^^^ ((1 : Value) <<< i)) ^^^ ((1 : Value) <<< j)) = 0)

/-- R141. The distance is the number of 1 bits of the XOR, over all 16 positions. -/
def Obligations.HammingIsPopcountOfXor : Prop :=
  ∀ a b : Value, (hamming a b).toNat = ((Finset.range 16).filter (fun k => (a ^^^ b).getLsbD k = true)).card ∧
    (hamming a b).toNat ≤ 16

/-- R143. The laws of the distance. -/
def Obligations.HammingIsAMetric : Prop :=
  ∀ x y z : Value, hamming x x = 0 ∧ hamming x y = hamming y x ∧ (hamming x y = 0 → x = y) ∧
    (hamming x z).toNat ≤ (hamming x y).toNat + (hamming y z).toNat ∧
    hamming x y = hamming (x ^^^ y) 0 ∧ (hamming x y).toNat ≤ 16

/-- R144. Values below 2^15 are at most 15 apart, though the function reaches 16 on wider ones. -/
def Obligations.CodewordDistanceIsAtMostFifteen : Prop :=
  (∀ a b : Value, a.toNat < 2 ^ 15 → b.toNat < 2 ^ 15 → (hamming a b).toNat ≤ 15) ∧
  ∃ a b : Value, (hamming a b).toNat = 16

/-! ## Command words -/

/-- R73: the words written out from the opcode map decode to the commands they stand for, every word of the map's
illegal rows (0x0, and 0x6 to 0xF) to ILLOP, and no word with a bit of 31:4 set to a command, since RSVD must be
zero; a stray write of zero to CMD is reported and not run.
(That write and its answer are presented through the model's lists, log entries 1 and 2.) -/
def Obligations.OpcodeMapWords : Prop :=
  decode 0x00000000 = .error .illop ∧ decode 0x00000001 = .ok .mask ∧ decode 0x00000002 = .ok .mod ∧
  decode 0x00000003 = .ok .enc ∧ decode 0x00000004 = .ok .syn ∧ decode 0x00000005 = .ok .hdist ∧
  (∀ op : Nat, 0x6 ≤ op → op ≤ 0xF → decode (BitVec.ofNat 32 op) = .error .illop) ∧
  (∀ w : Word, w >>> 4 ≠ 0 → decode w = .error .rsvd) ∧
  (∀ (b : Block) (q : List HostEvent) (rs : List Response),
    step ⟨b, .access (.write 0x0C 4 0x00000000) :: q, rs⟩ =
      .next ⟨{ b with valid := false, err := true, ecode := 0x2, sticky := true }, q, rs ++ [.done]⟩) ∧
  decodeTableWord 32 1 = some .mask ∧ decodeTableWord 32 5 = some .hdist ∧ decodeTableWord 32 0 = none

/-- R74. Decode and encode agree in both directions, over all 2^32 words and all commands: a word decodes to a
command exactly when it matches that command's word under the mask 0xFFFFFFFF, so every word is at most one
command; and the match words are those of the rule. -/
def Obligations.DecodeInvertsEncode : Prop :=
  (∀ (i : Instr) (w : Word), i.wellFormed = true → (decode w = .ok i ↔ w &&& 0xFFFFFFFF = encode i)) ∧
  (∀ i : Instr, i.wellFormed = true → decode (encode i) = .ok i) ∧
  (∀ (i j : Instr) (w : Word), w &&& 0xFFFFFFFF = encode i → w &&& 0xFFFFFFFF = encode j → i = j) ∧
  encode .mask = 0x00000001 ∧ encode .mod = 0x00000002 ∧ encode .enc = 0x00000003 ∧
  encode .syn = 0x00000004 ∧ encode .hdist = 0x00000005

/-- R75, R76 and R77. Decoding is total: RSVD exactly when a bit of 31:4 is set, whatever the opcode; ILLOP exactly
for 0x0 and 0x6 to 0xF; and the five commands for 0x1 to 0x5. A CMD write of a reserved or illegal word raises the
error and runs nothing.
(The access and its answer are presented through the model's lists, log entries 1 and 2.) -/
def Obligations.OtherWordsAreRefusedByName : Prop :=
  ∀ w : Word,
    (decode w = .error .rsvd ↔ 16 ≤ w.toNat) ∧
    (decode w = .error .illop ↔ w.toNat = 0 ∨ (6 ≤ w.toNat ∧ w.toNat < 16)) ∧
    (w.toNat = 1 → decode w = .ok .mask) ∧ (w.toNat = 2 → decode w = .ok .mod) ∧
    (w.toNat = 3 → decode w = .ok .enc) ∧ (w.toNat = 4 → decode w = .ok .syn) ∧
    (w.toNat = 5 → decode w = .ok .hdist) ∧
    (∀ (b : Block) (q : List HostEvent) (rs : List Response),
      (16 ≤ w.toNat → step ⟨b, .access (.write 0x0C 4 w) :: q, rs⟩ =
        .next ⟨{ b with valid := false, err := true, ecode := 0x1, sticky := true }, q, rs ++ [.done]⟩) ∧
      (w.toNat = 0 ∨ (6 ≤ w.toNat ∧ w.toNat < 16) → step ⟨b, .access (.write 0x0C 4 w) :: q, rs⟩ =
        .next ⟨{ b with valid := false, err := true, ecode := 0x2, sticky := true }, q, rs ++ [.done]⟩))

/-! ## Running a command through its CMD write -/

/-- A step runs the decoded instruction: when the host's next access writes to CMD a word that decodes to the
well-formed `i`, the step is `exec i` with that access taken off the queue, answered with the normal response.
(The access and its answer are presented through the model's lists, log entries 1 and 2.) -/
def Obligations.StepRunsTheDecodedCommand : Prop :=
  (∀ (s : State) (q : List HostEvent) (w : Word) (i : Instr),
    s.hostQueue = .access (.write 0x0C 4 w) :: q → decode w = .ok i → i.wellFormed = true →
    step s = answer .done (exec i { s with hostQueue := q })) ∧
  (∀ (s : State) (i : Instr), step (s.withFetchWord 32 (encode i).toNat) = answer .done (exec i s))

/-- R78, R161 and R162. A CMD write of any of the 2^32 words is RunCommand of that word, with `check` and its
order of errors as R162 writes them, in any state, in one step, with a normal response.
(The access and its answer are presented through the model's lists, log entries 1 and 2.) -/
def Obligations.CmdWriteIsRunCommand : Prop :=
  ∀ (s : State) (q : List HostEvent) (w : Word), s.hostQueue = .access (.write 0x0C 4 w) :: q →
    step s = .next { block := specRunCommand w s.block, hostQueue := q, responses := s.responses ++ [.done] }

/-- R162's examples of priority, on the machine: 0x00000017 gives RSVD, and MOD with OPN = 0 and OPB = 0 gives
LEN.
(The access and its answer are presented through the model's lists, log entries 1 and 2.) -/
def Obligations.ErrorPriorityExamples : Prop :=
  ∀ b : Block,
    (∃ t, step ⟨b, [sw .cmd 0x00000017], []⟩ = .next t ∧ t.block.ecode = 0x1) ∧
    (b.opn = 0 → b.opb = 0 → ∃ t, step ⟨b, [cmd .mod], []⟩ = .next t ∧ t.block.ecode = 0x3)

/-- From R203: straight after reset MASK, ENC, SYN and HDIST complete with RES = 0, and MOD is refused with LEN.
(The access and its answer are presented through the model's lists, log entries 1 and 2.) -/
def Obligations.CommandsAfterReset : Prop :=
  (∀ i : Instr, i ≠ .mod → ∃ t, step { State.reset with hostQueue := [cmd i] } = .next t ∧
    t.block = { Block.reset with valid := true }) ∧
  (∃ t, step { State.reset with hostQueue := [cmd .mod] } = .next t ∧
    t.block = { Block.reset with err := true, ecode := 0x3, sticky := true })

/-! ## The registers: what each access and each event does to them -/

/-- R22, R23 and R24. Each operand register is set by a write at its offset (cut to its width), cleared by a
reset, and changed by nothing else, commands among them; a read returns it zero-extended.
(The access and its answer are presented through the model's lists, log entries 1 and 2.) -/
def Obligations.OperandRegistersFollowTheirRules : Prop :=
  (∀ (s t : State) (e : HostEvent) (q : List HostEvent), s.hostQueue = e :: q → step s = .next t →
    ((∀ v, e = .access (.write 0x00 4 v) → t.block.opa = v.extractLsb' 0 16) ∧
     (e = .reset → t.block.opa = 0) ∧
     ((∀ v, e ≠ .access (.write 0x00 4 v)) → e ≠ .reset → t.block.opa = s.block.opa)) ∧
    ((∀ v, e = .access (.write 0x04 4 v) → t.block.opb = v.extractLsb' 0 16) ∧
     (e = .reset → t.block.opb = 0) ∧
     ((∀ v, e ≠ .access (.write 0x04 4 v)) → e ≠ .reset → t.block.opb = s.block.opb)) ∧
    ((∀ v, e = .access (.write 0x08 4 v) → t.block.opn = v.extractLsb' 0 5) ∧
     (e = .reset → t.block.opn = 0) ∧
     ((∀ v, e ≠ .access (.write 0x08 4 v)) → e ≠ .reset → t.block.opn = s.block.opn))) ∧
  (∀ (b : Block) (q : List HostEvent) (rs : List Response),
    step ⟨b, .access (.read 0x00 4) :: q, rs⟩ = .next ⟨b, q, rs ++ [.data (b.opa.zeroExtend 32)]⟩ ∧
    step ⟨b, .access (.read 0x04 4) :: q, rs⟩ = .next ⟨b, q, rs ++ [.data (b.opb.zeroExtend 32)]⟩ ∧
    step ⟨b, .access (.read 0x08 4) :: q, rs⟩ = .next ⟨b, q, rs ++ [.data (b.opn.zeroExtend 32)]⟩)

/-- R25. RES is written only by a command that completes and by a reset: a refused command, a write at its own
offset and every other event leave it; a read returns it zero-extended.
(The access and its answer are presented through the model's lists, log entries 1 and 2.) -/
def Obligations.ResultRegisterFollowsItsRule : Prop :=
  (∀ (s t : State) (e : HostEvent) (q : List HostEvent), s.hostQueue = e :: q → step s = .next t →
    (∀ w, e = .access (.write 0x0C 4 w) →
      (specCheck w s.block.opa s.block.opb s.block.opn = 0 →
        t.block.res = specResult w s.block.opa s.block.opb s.block.opn) ∧
      (specCheck w s.block.opa s.block.opb s.block.opn ≠ 0 → t.block.res = s.block.res)) ∧
    (e = .reset → t.block.res = 0) ∧
    ((∀ w, e ≠ .access (.write 0x0C 4 w)) → e ≠ .reset → t.block.res = s.block.res)) ∧
  (∀ (b : Block) (q : List HostEvent) (rs : List Response) (v : Word),
    step ⟨b, .access (.read 0x10 4) :: q, rs⟩ = .next ⟨b, q, rs ++ [.data (b.res.zeroExtend 32)]⟩ ∧
    step ⟨b, .access (.write 0x10 4 v) :: q, rs⟩ = .next ⟨b, q, rs ++ [.done]⟩)

/-- R28. The layout of STATUS as a host read sees it, reserved bits zero; and a host write changes STICKY alone,
clearing it when bit 2 of the written word is set.
(The access and its answer are presented through the model's lists, log entries 1 and 2.) -/
def Obligations.StatusWordLayout : Prop :=
  (∀ (b : Block) (q : List HostEvent) (rs : List Response), ∃ v : Word,
    step ⟨b, .access (.read 0x14 4) :: q, rs⟩ = .next ⟨b, q, rs ++ [.data v]⟩ ∧
    v.getLsbD 0 = b.valid ∧ v.getLsbD 1 = b.err ∧ v.getLsbD 2 = b.sticky ∧ v.getLsbD 3 = false ∧
    v.extractLsb' 4 4 = b.ecode ∧ v.extractLsb' 8 24 = 0) ∧
  (∀ (b : Block) (q : List HostEvent) (rs : List Response) (v : Word),
    step ⟨b, .access (.write 0x14 4 v) :: q, rs⟩ =
      .next ⟨{ b with sticky := b.sticky && !v.getLsbD 2 }, q, rs ++ [.done]⟩) ∧
  statusWord Block.reset = 0

/-- R29, R30, R31 and R32. Every change of VALID, ERR, STICKY and ECODE, over all events: refused commands set
them one way, completed commands the other (leaving STICKY), a STATUS write clears STICKY alone, a reset clears
all four, and nothing else changes any of them.
(The access and its answer are presented through the model's lists, log entries 1 and 2.) -/
def Obligations.StatusFieldsFollowTheirRules : Prop :=
  ∀ (s t : State) (e : HostEvent) (q : List HostEvent), s.hostQueue = e :: q → step s = .next t →
    (∀ w, Writes e .cmd w → specCheck w s.block.opa s.block.opb s.block.opn ≠ 0 →
      t.block.valid = false ∧ t.block.err = true ∧ t.block.sticky = true ∧
      t.block.ecode = specCheck w s.block.opa s.block.opb s.block.opn) ∧
    (∀ w, Writes e .cmd w → specCheck w s.block.opa s.block.opb s.block.opn = 0 →
      t.block.valid = true ∧ t.block.err = false ∧ t.block.sticky = s.block.sticky ∧ t.block.ecode = 0) ∧
    (∀ v, Writes e .status v →
      t.block.valid = s.block.valid ∧ t.block.err = s.block.err ∧ t.block.ecode = s.block.ecode ∧
      t.block.sticky = (s.block.sticky && !v.getLsbD 2)) ∧
    (e = .reset → t.block.valid = false ∧ t.block.err = false ∧ t.block.sticky = false ∧ t.block.ecode = 0) ∧
    (¬ IsCommand e → ¬ ClearsSticky e → e ≠ .reset →
      t.block.valid = s.block.valid ∧ t.block.err = s.block.err ∧ t.block.sticky = s.block.sticky ∧
      t.block.ecode = s.block.ecode)

/-- R36 and R37. CFG0 and CFG1 read this block's constants in every state, after any reset as before it, and
ignore writes.
(The access and its answer are presented through the model's lists, log entries 1 and 2.) -/
def Obligations.ConfigurationRegistersAreConstant : Prop :=
  ∀ (b : Block) (q : List HostEvent) (rs : List Response) (v : Word),
    step ⟨b, .access (.read 0x18 4) :: q, rs⟩ = .next ⟨b, q, rs ++ [.data 0x00000013]⟩ ∧
    step ⟨b, .access (.read 0x1C 4) :: q, rs⟩ = .next ⟨b, q, rs ++ [.data 0x010B0F05]⟩ ∧
    step ⟨b, .access (.write 0x18 4 v) :: q, rs⟩ = .next ⟨b, q, rs ++ [.done]⟩ ∧
    step ⟨b, .access (.write 0x1C 4 v) :: q, rs⟩ = .next ⟨b, q, rs ++ [.done]⟩ ∧
    cfg0Word Config.cfg = Config.cfg.gen.zeroExtend 32 ∧
    (cfg1Word Config.cfg).extractLsb' 0 5 = BitVec.ofNat 5 Config.cfg.genLen ∧
    (cfg1Word Config.cfg).extractLsb' 8 5 = BitVec.ofNat 5 Config.cfg.codeLen ∧
    (cfg1Word Config.cfg).extractLsb' 16 5 = BitVec.ofNat 5 Config.cfg.dataLen ∧
    (cfg1Word Config.cfg).extractLsb' 24 4 = BitVec.ofNat 4 Config.cfg.errors ∧
    cfg1Word Config.cfg &&& 0xF0E0E0E0 = 0

/-- R53. MemRead, offset by offset: the value returned, and no change of the block; any other access is a bus
error.
(The access and its answer are presented through the model's lists, log entries 1 and 2.) -/
def Obligations.ReadMap : Prop :=
  ∀ (b : Block) (q : List HostEvent) (rs : List Response),
    step ⟨b, .access (.read 0x00 4) :: q, rs⟩ = .next ⟨b, q, rs ++ [.data (b.opa.zeroExtend 32)]⟩ ∧
    step ⟨b, .access (.read 0x04 4) :: q, rs⟩ = .next ⟨b, q, rs ++ [.data (b.opb.zeroExtend 32)]⟩ ∧
    step ⟨b, .access (.read 0x08 4) :: q, rs⟩ = .next ⟨b, q, rs ++ [.data (b.opn.zeroExtend 32)]⟩ ∧
    step ⟨b, .access (.read 0x0C 4) :: q, rs⟩ = .next ⟨b, q, rs ++ [.data 0]⟩ ∧
    step ⟨b, .access (.read 0x10 4) :: q, rs⟩ = .next ⟨b, q, rs ++ [.data (b.res.zeroExtend 32)]⟩ ∧
    step ⟨b, .access (.read 0x14 4) :: q, rs⟩ = .next ⟨b, q, rs ++ [.data
      ((b.ecode.zeroExtend 32 <<< 4) ||| ((BitVec.ofBool b.sticky).zeroExtend 32 <<< 2) |||
       ((BitVec.ofBool b.err).zeroExtend 32 <<< 1) ||| (BitVec.ofBool b.valid).zeroExtend 32)]⟩ ∧
    step ⟨b, .access (.read 0x18 4) :: q, rs⟩ = .next ⟨b, q, rs ++ [.data 0x00000013]⟩ ∧
    step ⟨b, .access (.read 0x1C 4) :: q, rs⟩ = .next ⟨b, q, rs ++ [.data 0x010B0F05]⟩ ∧
    (∀ off size : Nat,
      ¬(size = 4 ∧ off ∈ [0x00, 0x04, 0x08, 0x0C, 0x10, 0x14, 0x18, 0x1C]) →
      step ⟨b, .access (.read off size) :: q, rs⟩ = .next ⟨b, q, rs ++ [.busError]⟩)

/-- R54. MemWrite, offset by offset, the CMD case being RunCommand; any other access is a bus error.
(The access and its answer are presented through the model's lists, log entries 1 and 2.) -/
def Obligations.WriteMap : Prop :=
  ∀ (b : Block) (q : List HostEvent) (rs : List Response) (v : Word),
    step ⟨b, .access (.write 0x00 4 v) :: q, rs⟩ = .next ⟨{ b with opa := v.extractLsb' 0 16 }, q, rs ++ [.done]⟩ ∧
    step ⟨b, .access (.write 0x04 4 v) :: q, rs⟩ = .next ⟨{ b with opb := v.extractLsb' 0 16 }, q, rs ++ [.done]⟩ ∧
    step ⟨b, .access (.write 0x08 4 v) :: q, rs⟩ = .next ⟨{ b with opn := v.extractLsb' 0 5 }, q, rs ++ [.done]⟩ ∧
    step ⟨b, .access (.write 0x0C 4 v) :: q, rs⟩ = .next ⟨specRunCommand v b, q, rs ++ [.done]⟩ ∧
    step ⟨b, .access (.write 0x10 4 v) :: q, rs⟩ = .next ⟨b, q, rs ++ [.done]⟩ ∧
    step ⟨b, .access (.write 0x14 4 v) :: q, rs⟩ =
      .next ⟨if v.getLsbD 2 = true then { b with sticky := false } else b, q, rs ++ [.done]⟩ ∧
    step ⟨b, .access (.write 0x18 4 v) :: q, rs⟩ = .next ⟨b, q, rs ++ [.done]⟩ ∧
    step ⟨b, .access (.write 0x1C 4 v) :: q, rs⟩ = .next ⟨b, q, rs ++ [.done]⟩ ∧
    (∀ off size : Nat,
      ¬(size = 4 ∧ off ∈ [0x00, 0x04, 0x08, 0x0C, 0x10, 0x14, 0x18, 0x1C]) →
      step ⟨b, .access (.write off size v) :: q, rs⟩ = .next ⟨b, q, rs ++ [.busError]⟩)

/-- R50, R170 and R171. An access whose size is not 4, whose offset is no multiple of 4 or lies outside the
window changes no register and runs no command: it is answered with a bus error; every other access is
answered, and not with a bus error.
(The access and its answer are presented through the model's lists, log entries 1 and 2.) -/
def Obligations.BusErrorsChangeNothing : Prop :=
  ∀ (b : Block) (q : List HostEvent) (rs : List Response) (off size : Nat) (v : Word),
    ((size ≠ 4 ∨ off % 4 ≠ 0 ∨ 0x20 ≤ off) →
      step ⟨b, .access (.read off size) :: q, rs⟩ = .next ⟨b, q, rs ++ [.busError]⟩ ∧
      step ⟨b, .access (.write off size v) :: q, rs⟩ = .next ⟨b, q, rs ++ [.busError]⟩) ∧
    ((size = 4 ∧ off % 4 = 0 ∧ off < 0x20) →
      (∃ x, step ⟨b, .access (.read off size) :: q, rs⟩ = .next ⟨b, q, rs ++ [.data x]⟩) ∧
      (∃ b', step ⟨b, .access (.write off size v) :: q, rs⟩ = .next ⟨b', q, rs ++ [.done]⟩))

/-- R59. Repeating an access at once changes nothing more, a CMD write with its command among them; and reads,
and writes to RES, CFG0 and CFG1, change nothing at all.
(The access and its answer are presented through the model's lists, log entries 1 and 2.) -/
def Obligations.RepeatedAccessChangesNothingMore : Prop :=
  (∀ (b : Block) (a : Access) (q : List HostEvent) (rs : List Response) (t u : State),
    step ⟨b, .access a :: .access a :: q, rs⟩ = .next t → step t = .next u → u.block = t.block) ∧
  (∀ (b : Block) (off size : Nat) (v : Word) (q : List HostEvent) (rs : List Response) (t : State),
    (step ⟨b, .access (.read off size) :: q, rs⟩ = .next t ∨
     step ⟨b, .access (.write 0x10 4 v) :: q, rs⟩ = .next t ∨
     step ⟨b, .access (.write 0x18 4 v) :: q, rs⟩ = .next t ∨
     step ⟨b, .access (.write 0x1C 4 v) :: q, rs⟩ = .next t) → t.block = b)

/-- R41 and R200. A reset is a step that sets every register to its reset value, from every state, and after it
STATUS reads 0 and CFG0 and CFG1 read what they read before; the machine's own reset state has the same registers.
(That the host's queue and answers outlive a reset is the model's choice, log entry 6, and is not stated here.) -/
def Obligations.ResetClearsEveryRegister : Prop :=
  (∀ (b : Block) (q : List HostEvent) (rs : List Response), ∃ t,
    step ⟨b, .reset :: q, rs⟩ = .next t ∧
    t.block = { opa := 0x0000, opb := 0x0000, opn := 0b00000, res := 0x0000,
                valid := false, err := false, sticky := false, ecode := 0x0 } ∧
    readReg .status t.block = 0x00000000 ∧
    readReg .cfg0 t.block = readReg .cfg0 b ∧ readReg .cfg1 t.block = readReg .cfg1 b) ∧
  State.reset.block = { opa := 0x0000, opb := 0x0000, opn := 0b00000, res := 0x0000,
                        valid := false, err := false, sticky := false, ecode := 0x0 }

/-! ## The whole machine -/

/-- From R33 and R160: every step keeps the STATUS invariant, from every state that meets it: VALID and ERR never
hold together, ECODE is 0 exactly when ERR is, and no code above 5 ever stands in ECODE. (That a step with nothing
waiting leaves the state as it is, is the model's choice, log entry 3.)
(The access and its answer are presented through the model's lists, log entries 1 and 2.) -/
def Obligations.EveryStepKeepsStatusInv : Prop :=
  ∀ s t : State, StatusInv s.block → step s = .next t → StatusInv t.block

/-- From R33: the reset state meets the STATUS invariant, and ERR implies STICKY there. -/
def Obligations.ResetMeetsStatusInv : Prop :=
  StatusInv State.reset.block ∧ StickyInv State.reset.block

/-- From R33: ERR implies STICKY is kept by every step but a host write that clears STICKY. (That a
step with nothing waiting leaves the state as it is, is the model's choice, log entry 3.)
(The access and its answer are presented through the model's lists, log entries 1 and 2.) -/
def Obligations.StickyFollowsErrUntilCleared : Prop :=
  ∀ s t : State, StickyInv s.block → step s = .next t →
    (∀ e, s.hostQueue.head? = some e → ¬ ClearsSticky e) → StickyInv t.block

/-- From R165 and R207: over a whole batch of accesses with no reset and no clear of STICKY in it, started with
STICKY = 0, STICKY is set at the end exactly when some command of the batch was refused, that is, when right after
some CMD write of the batch ERR is set.
(The access and its answer are presented through the model's lists, log entries 1 and 2.) -/
def Obligations.StickySummarisesABatch : Prop :=
  ∀ s t : State, s.block.sticky = false →
    (∀ e ∈ s.hostQueue, e ≠ .reset ∧ ¬ ClearsSticky e) →
    Host.Core.run Sys2Proof.core s.hostQueue.length s = .next t →
    (t.block.sticky = true ↔
      ∃ (k : Nat) (e : HostEvent) (u : State), s.hostQueue[k]? = some e ∧ IsCommand e ∧
        Host.Core.run Sys2Proof.core (k + 1) s = .next u ∧ u.block.err = true)

/-- From R40 and R62: what a step does to the block, and what it answers, depends on the registers and on that
one event, not on what was asked before or is waiting: nothing is hidden. (The event may be a reset: that the
answers outlive it, and that it gives none, is the model's choice, log entry 6.)
(The access and its answer are presented through the model's lists, log entries 1 and 2.) -/
def Obligations.NothingHiddenDecidesAStep : Prop :=
  ∀ (s u s' u' : State) (e : HostEvent) (q p : List HostEvent),
    s.hostQueue = e :: q → u.hostQueue = e :: p → s.block = u.block →
    step s = .next s' → step u = .next u' →
    s'.block = u'.block ∧ ∃ rs, s'.responses = s.responses ++ rs ∧ u'.responses = u.responses ++ rs

/-- From R62, R209 and R210: no access is ever refused a step. From every state, the whole of the host's queue is
performed, one event a step, and every access in it has exactly one answer. (The queue may hold resets: that what
waits and what was answered outlives a reset, and that a reset gives no answer, is the model's choice, log entry 6.)
(The access and its answer are presented through the model's lists, log entries 1 and 2.) -/
def Obligations.EveryAccessIsAnswered : Prop :=
  ∀ s : State, ∃ t rs, Host.Core.run Sys2Proof.core s.hostQueue.length s = .next t ∧
    t.hostQueue = [] ∧ t.responses = s.responses ++ rs ∧
    rs.length = (s.hostQueue.filter (fun e => decide (e ≠ .reset))).length

/-- From R211, with log entry 2's reading of it: the observed answers grow by what a read returned and by the bus
error of every access that is not admitted, read or write, and not by the normal response of a write; the
observation holds the block reached as well; and it is no less than the two together: states with different
blocks, or different observed answers, are observed differently. -/
def Obligations.ObservationIsWhatReadsReturn : Prop :=
  (∀ (b : Block) (q : List HostEvent) (rs : List Response) (r : Reg) (v : Word),
    (∃ t, step ⟨b, lw r :: q, rs⟩ = .next t ∧
      observation t = ⟨(observation ⟨b, q, rs⟩).answers ++ [.data (readReg r b)], b⟩) ∧
    (∃ t, step ⟨b, sw r v :: q, rs⟩ = .next t ∧
      observation t = ⟨(observation ⟨b, q, rs⟩).answers, t.block⟩) ∧
    (∀ off size : Nat, ¬(size = 4 ∧ off ∈ [0x00, 0x04, 0x08, 0x0C, 0x10, 0x14, 0x18, 0x1C]) →
      (∃ t, step ⟨b, .access (.read off size) :: q, rs⟩ = .next t ∧
        observation t = ⟨(observation ⟨b, q, rs⟩).answers ++ [.busError], b⟩) ∧
      (∃ t, step ⟨b, .access (.write off size v) :: q, rs⟩ = .next t ∧
        observation t = ⟨(observation ⟨b, q, rs⟩).answers ++ [.busError], b⟩))) ∧
  (∀ s u : State, observation s = observation u ↔
    s.block = u.block ∧ observedAnswers s.responses = observedAnswers u.responses)

/-- From R62 and R211: a run ends with the host's sequence, and the observation of a run of two sequences, one after
the other, is the first one's observed answers, then those the second gives from the block the first has reached,
and the second one's final block. (The sequences may hold resets: that what waits and what was answered outlives a
reset, and that a reset gives no answer, is the model's choice, log entry 6. The sequence and the answers are the
model's lists, log entries 1 and 2.) -/
def Obligations.RunObservationsCompose : Prop :=
  ∀ (b : Block) (q₁ q₂ : List HostEvent) (t₁ t₂ : State),
    Host.Core.run Sys2Proof.core q₁.length ⟨b, q₁, []⟩ = .next t₁ →
    Host.Core.run Sys2Proof.core q₂.length ⟨t₁.block, q₂, []⟩ = .next t₂ →
    ∃ t, Host.Core.run Sys2Proof.core (q₁ ++ q₂).length ⟨b, q₁ ++ q₂, []⟩ = .next t ∧ runEnded t = true ∧
      observation t = ⟨(observation t₁).answers ++ (observation t₂).answers, (observation t₂).endBlock⟩

/-- R80. Each pseudo-instruction's accesses, run from any state, write its operands and run its command; and an
operand write of a value the register already holds leaves the block as it is, so it may be left out.
(The access and its answer are presented through the model's lists, log entries 1 and 2.) -/
def Obligations.PseudoInstructionsRun : Prop :=
  ∀ (b : Block) (q : List HostEvent) (rs : List Response) (x y n : Word),
    (∃ t, Host.Core.run Sys2Proof.core 2 ⟨b, pseudoMask n ++ q, rs⟩ = .next t ∧ t.hostQueue = q ∧
      t.block = specRunCommand 1 { b with opn := n.extractLsb' 0 5 }) ∧
    (∃ t, Host.Core.run Sys2Proof.core 4 ⟨b, pseudoMod x y n ++ q, rs⟩ = .next t ∧ t.hostQueue = q ∧
      t.block = specRunCommand 2
        { b with opa := x.extractLsb' 0 16, opb := y.extractLsb' 0 16, opn := n.extractLsb' 0 5 }) ∧
    (∃ t, Host.Core.run Sys2Proof.core 2 ⟨b, pseudoEnc x ++ q, rs⟩ = .next t ∧ t.hostQueue = q ∧
      t.block = specRunCommand 3 { b with opa := x.extractLsb' 0 16 }) ∧
    (∃ t, Host.Core.run Sys2Proof.core 2 ⟨b, pseudoSyn x ++ q, rs⟩ = .next t ∧ t.hostQueue = q ∧
      t.block = specRunCommand 4 { b with opa := x.extractLsb' 0 16 }) ∧
    (∃ t, Host.Core.run Sys2Proof.core 3 ⟨b, pseudoHdist x y ++ q, rs⟩ = .next t ∧ t.hostQueue = q ∧
      t.block = specRunCommand 5 { b with opa := x.extractLsb' 0 16, opb := y.extractLsb' 0 16 }) ∧
    (∃ t, Host.Core.run Sys2Proof.core 1 ⟨b, clrSticky ++ q, rs⟩ = .next t ∧ t.hostQueue = q ∧
      t.block = { b with sticky := false }) ∧
    (b.opa = x.extractLsb' 0 16 → ∃ t, step ⟨b, sw .opa x :: q, rs⟩ = .next t ∧ t.block = b) ∧
    (b.opb = x.extractLsb' 0 16 → ∃ t, step ⟨b, sw .opb x :: q, rs⟩ = .next t ∧ t.block = b) ∧
    (b.opn = x.extractLsb' 0 5 → ∃ t, step ⟨b, sw .opn x :: q, rs⟩ = .next t ∧ t.block = b)

/-- R55's byte lanes: lane k carries bits 8k+7 to 8k, and the four lanes give the word back. -/
def Obligations.ByteLanesAreLittleEndian : Prop :=
  ∀ v : Word,
    (∀ k < 4, ∀ j < 8, (byteLane v k).getLsbD j = v.getLsbD (8 * k + j)) ∧
    ofLanes (byteLane v 0) (byteLane v 1) (byteLane v 2) (byteLane v 3) = v

/-- R51's window: BASE is a multiple of 32, and the host addresses at which the block is reached are BASE to
BASE + 0x1F, each at its offset. -/
def Obligations.WindowIsThirtyTwoBytesAtBase : Prop :=
  32 ∣ Config.base ∧
  ∀ addr off : Nat, windowOffset addr = some off ↔ addr = Config.base + off ∧ off < 0x20
end

