-- ==== Sys2Proof/Laws/State.lean ====
section
/-! SUPPORT. One lemma per field per update of the state, so that no proof unfolds a record update. -/

namespace Sys2Proof.Machine

variable (s : State) (f : Block → Block) (r : Response) (b : Block) (e : CmdError) (x : Value) (w : Word)

@[simp] theorem withBlock_block : (s.withBlock f).block = f s.block := rfl
@[simp] theorem withBlock_hostQueue : (s.withBlock f).hostQueue = s.hostQueue := rfl
@[simp] theorem withBlock_responses : (s.withBlock f).responses = s.responses := rfl

@[simp] theorem respond_block : (s.respond r).block = s.block := rfl
@[simp] theorem respond_hostQueue : (s.respond r).hostQueue = s.hostQueue := rfl
@[simp] theorem respond_responses : (s.respond r).responses = s.responses ++ [r] := rfl

@[simp] theorem observedAnswers_append (rs rs' : List Response) :
    observedAnswers (rs ++ rs') = observedAnswers rs ++ observedAnswers rs' := List.filter_append ..
@[simp] theorem observation_answers : (observation s).answers = observedAnswers s.responses := rfl
@[simp] theorem observation_endBlock : (observation s).endBlock = s.block := rfl

@[simp] theorem refuse_opa : (refuse e b).opa = b.opa := rfl
@[simp] theorem refuse_opb : (refuse e b).opb = b.opb := rfl
@[simp] theorem refuse_opn : (refuse e b).opn = b.opn := rfl
@[simp] theorem refuse_res : (refuse e b).res = b.res := rfl
@[simp] theorem refuse_valid : (refuse e b).valid = false := rfl
@[simp] theorem refuse_err : (refuse e b).err = true := rfl
@[simp] theorem refuse_sticky : (refuse e b).sticky = true := rfl
@[simp] theorem refuse_ecode : (refuse e b).ecode = errorCode e := rfl

@[simp] theorem complete_opa : (complete x b).opa = b.opa := rfl
@[simp] theorem complete_opb : (complete x b).opb = b.opb := rfl
@[simp] theorem complete_opn : (complete x b).opn = b.opn := rfl
@[simp] theorem complete_res : (complete x b).res = x := rfl
@[simp] theorem complete_valid : (complete x b).valid = true := rfl
@[simp] theorem complete_err : (complete x b).err = false := rfl
@[simp] theorem complete_sticky : (complete x b).sticky = b.sticky := rfl
@[simp] theorem complete_ecode : (complete x b).ecode = 0 := rfl

@[simp] theorem writeStatus_opa : (writeStatus w b).opa = b.opa := by unfold writeStatus; split <;> rfl
@[simp] theorem writeStatus_opb : (writeStatus w b).opb = b.opb := by unfold writeStatus; split <;> rfl
@[simp] theorem writeStatus_opn : (writeStatus w b).opn = b.opn := by unfold writeStatus; split <;> rfl
@[simp] theorem writeStatus_res : (writeStatus w b).res = b.res := by unfold writeStatus; split <;> rfl
@[simp] theorem writeStatus_valid : (writeStatus w b).valid = b.valid := by unfold writeStatus; split <;> rfl
@[simp] theorem writeStatus_err : (writeStatus w b).err = b.err := by unfold writeStatus; split <;> rfl
@[simp] theorem writeStatus_ecode : (writeStatus w b).ecode = b.ecode := by unfold writeStatus; split <;> rfl
@[simp] theorem writeStatus_sticky :
    (writeStatus w b).sticky = (b.sticky && !w.getLsbD 2) := by
  unfold writeStatus; cases w.getLsbD 2 <;> simp

end Sys2Proof.Machine
end

