-- ==== Sys2Proof/Laws/Ops.lean ====
section
/-! SUPPORT. What each shared operation can do, said once: how a command ends, which register an access
reaches, and which operands pass their checks. -/

namespace Sys2Proof.Machine

/-- No error code is zero, so ECODE tells a refusal from a completion (R32, R160). -/
theorem errorCode_ne_zero (e : CmdError) : errorCode e ≠ 0 := by cases e <;> decide

/-- The codes of R160 end at 5. -/
theorem errorCode_le_five (e : CmdError) : (errorCode e).toNat ≤ 5 := by cases e <;> decide

@[simp] theorem finish_some (e : CmdError) (x : Value) (b : Block) : finish (some e) x b = refuse e b := rfl
@[simp] theorem finish_none (x : Value) (b : Block) : finish none x b = complete x b := rfl

/-- A command ends refused or completed, and nothing else. -/
theorem finish_cases (c : Option CmdError) (x : Value) (b : Block) :
    (∃ e, c = some e ∧ finish c x b = refuse e b) ∨ (c = none ∧ finish c x b = complete x b) := by
  cases c with
  | none => exact .inr ⟨rfl, rfl⟩
  | some e => exact .inl ⟨e, rfl, rfl⟩

/-- No command writes an operand register (R22 to R24). -/
theorem finish_operands (c : Option CmdError) (x : Value) (b : Block) :
    (finish c x b).opa = b.opa ∧ (finish c x b).opb = b.opb ∧ (finish c x b).opn = b.opn := by
  cases c <;> exact ⟨rfl, rfl, rfl⟩

/-- A register is mapped at its own offset and nowhere else (R52). -/
theorem regAt_eq_some {off : Nat} {r : Reg} : regAt off = some r ↔ off = regOffset r := by
  constructor
  · intro h
    unfold regAt at h
    split at h <;> cases h <;> rfl
  · rintro rfl
    cases r <;> rfl

/-- An access is admitted exactly as a 4-byte access at the register's offset (R50). -/
theorem admittedReg_eq_some {off size : Nat} {r : Reg} :
    admittedReg off size = some r ↔ off = regOffset r ∧ size = 4 := by
  unfold admittedReg
  constructor
  · intro h
    split at h
    · exact ⟨regAt_eq_some.mp h, (‹size = 4 ∧ off % 4 = 0›).1⟩
    · cases h
  · rintro ⟨rfl, rfl⟩
    cases r <;> rfl

@[simp] theorem admittedReg_regOffset (r : Reg) : admittedReg (regOffset r) 4 = some r := admittedReg_eq_some.mpr ⟨rfl, rfl⟩

theorem maskCheck_eq_none {n : Len} : maskCheck n = none ↔ n.toNat ≤ 16 := by
  unfold maskCheck; split <;> simp <;> omega

theorem maskCheck_eq_some {n : Len} {e : CmdError} : maskCheck n = some e ↔ 16 < n.toNat ∧ e = .len := by
  unfold maskCheck; split <;> simp_all [eq_comm]

/-- The divisor check asks for at least one digit and at most 16, so OPN needs no other check (R105). -/
theorem modCheck_eq_none {d : Value} {n : Len} : modCheck d n = none ↔ divisorOk d n.toNat = true := by
  unfold modCheck divisorOk
  split
  · simp; omega
  · split <;> simp_all

theorem rangeCheck_eq_none {k : Nat} {v : Value} : rangeCheck k v = none ↔ v.toNat < 2 ^ k := by
  unfold rangeCheck
  have h : v >>> k = 0 ↔ v.toNat < 2 ^ k := by
    rw [← BitVec.toNat_inj, BitVec.toNat_ushiftRight, Nat.shiftRight_eq_div_pow]
    simp [Nat.div_eq_zero_iff]
  split <;> simp_all

end Sys2Proof.Machine
end

