-- ==== Sys2Proof/Laws/Exec.lean ====
section
/-! SUPPORT. Every command's meaning in one form: an operand check and a result, ended by `finish`. -/

namespace Sys2Proof.Machine

/-- The operand check an instruction makes (R162, the lines after the opcode's). -/
def operandCheck (i : Instr) (b : Block) : Option CmdError :=
  match i with
  | .mask => maskCheck b.opn
  | .mod => modCheck b.opb b.opn
  | .enc => rangeCheck Config.cfg.dataLen b.opa
  | .syn => rangeCheck Config.cfg.codeLen b.opa
  | .hdist => none

/-- The result an instruction computes from the operand registers (R72). -/
def resultOf (i : Instr) (b : Block) : Value :=
  match i with
  | .mask => mask b.opn.toNat
  | .mod => gf2Mod b.opa b.opb b.opn.toNat
  | .enc => bchEncode Config.cfg b.opa
  | .syn => syndrome Config.cfg b.opa
  | .hdist => hamming b.opa b.opb

/-- What running an instruction does, said once for all of them: later proofs cite this and do not unfold
a meaning. -/
theorem exec_eq (i : Instr) (s : State) :
    exec i s = .next (s.withBlock fun b => finish (operandCheck i b) (resultOf i b) b) := by
  cases i <;> rfl

end Sys2Proof.Machine
end

