-- ==== Sys2Proof/Laws/PerInstr.lean ====
section
/-! SUPPORT. What holds of every instruction as syntax, one lemma per constructor. -/

namespace Sys2Proof.Laws.Encoding

/-- A well-formed instruction's word has a zero RSVD field, so it is never RSVD, and an opcode of 1 to 5, so
it is never ILLOP (R73, R75, R76). -/
def Statement (i : Instr) : Prop :=
  i.wellFormed = true ∧ rsvdField (encode i) = 0 ∧ opField (encode i) ≠ 0 ∧ (opField (encode i)).toNat ≤ 5

theorem mask : Statement .mask := by unfold Statement; decide
theorem mod : Statement .mod := by unfold Statement; decide
theorem enc : Statement .enc := by unfold Statement; decide
theorem syn : Statement .syn := by unfold Statement; decide
theorem hdist : Statement .hdist := by unfold Statement; decide

end Sys2Proof.Laws.Encoding
end

