-- ==== Sys2Proof/Laws/Remainder.lean ====
section
/-! SUPPORT. The bits of the bitmask and of one scan position of the remainder engine. -/

namespace Sys2Proof.Machine

/-- Bit `k` of `mask len` is set exactly below `len`, within 16 bits. -/
theorem getLsbD_mask (len k : Nat) : (mask len).getLsbD k = (decide (k < 16) && decide (k < len)) := by
  simp [mask, BitVec.getLsbD_ofNat, Nat.testBit_two_pow_sub_one]

/-- A divisor whose bit length is `n` has no bit at or above position `n`, and bit `n - 1` is its leading 1. -/
theorem divisorOk_bits {d : Value} {n : Nat} (h : divisorOk d n = true) :
    1 ≤ n ∧ n ≤ 16 ∧ d.getLsbD (n - 1) = true ∧ ∀ k, n ≤ k → d.getLsbD k = false := by
  simp only [divisorOk, Bool.and_eq_true, decide_eq_true_eq, beq_iff_eq] at h
  obtain ⟨⟨h1, h2⟩, h3⟩ := h
  have hb (j : Nat) : d.getLsbD (n - 1 + j) = (1#16).getLsbD j := by
    rw [← BitVec.getLsbD_ushiftRight]; exact congrArg (·.getLsbD j) h3
  refine ⟨h1, h2, by simpa using hb 0, fun k hk => ?_⟩
  have hk' := hb (k - (n - 1))
  rw [Nat.add_sub_cancel' (by omega)] at hk'
  rw [hk', BitVec.getLsbD_one]
  simp; omega

/-- One scan position XORs the divisor, shifted so that its leading 1 meets bit `i`, exactly when bit `i` is
set: for a divisor that passes its check, the window arithmetic is plain long division. -/
theorem gf2Step_eq {d : Value} {n i : Nat} (h : divisorOk d n = true) (v : Value) :
    gf2Step d n i v = if v.getLsbD i then v ^^^ (d <<< (i - (n - 1))) else v := by
  obtain ⟨h1, h2, -, hz⟩ := divisorOk_bits h
  unfold gf2Step
  split
  · apply BitVec.eq_of_getLsbD_eq
    intro k hk
    simp only [BitVec.getLsbD_or, BitVec.getLsbD_and, BitVec.getLsbD_not, BitVec.getLsbD_shiftLeft,
      BitVec.getLsbD_xor, BitVec.getLsbD_ushiftRight, getLsbD_mask]
    by_cases hlo : k < i - (n - 1)
    · simp [hlo, hk]
    · have hlo' : i - (n - 1) ≤ k := by omega
      by_cases hhi : k - (i - (n - 1)) < n
      · have h16 : k - (i - (n - 1)) < 16 := by omega
        simp [hlo, hk, hhi, h16, Nat.add_sub_cancel' hlo']
      · have hd := hz (k - (i - (n - 1))) (by omega)
        simp [hlo, hk, hhi, hd]
  · rfl

/-- The scan, written as one position after another. -/
theorem gf2Scan_succ (d : Value) (n k : Nat) (v : Value) :
    gf2Scan d n (k + 1) v = gf2Scan d n k (gf2Step d n (n - 1 + k) v) := rfl

/-- The check bits of any configuration a model may take pass the divisor check (R10, R121). -/
theorem divisorOk_of_wellFormed {c : Cfg} (h : c.wellFormed = true) : divisorOk c.gen c.genLen = true := by
  simp only [Cfg.wellFormed, Bool.and_eq_true, decide_eq_true_eq] at h
  obtain ⟨⟨⟨⟨⟨h1, h2⟩, h3⟩, h4⟩, h5⟩, h6⟩ := h
  simp only [divisorOk, Bool.and_eq_true, decide_eq_true_eq, beq_iff_eq]
  refine ⟨⟨h1, h2⟩, BitVec.eq_of_getLsbD_eq fun k hk => ?_⟩
  rw [BitVec.getLsbD_ushiftRight, show (1 : BitVec 16) = 1#16 from rfl, BitVec.getLsbD_one]
  cases k with
  | zero => simpa using h6
  | succ k =>
    have : c.gen.getLsbD (c.genLen - 1 + (k + 1)) = false := by
      rw [BitVec.getLsbD, Nat.testBit_lt_two_pow]
      exact lt_of_lt_of_le h5 (Nat.pow_le_pow_right (by omega) (by omega))
    simp [this]

/-- What this block's own configuration is (R8). -/
theorem cfg_wellFormed : Config.cfg.wellFormed = true := by decide

end Sys2Proof.Machine
end

