-- ==== Sys2Proof/Laws/Step.lean ====
section
/-! SUPPORT. What one step does, said once: the block after each event, the answer to it, and the equation
of `step` in those terms. Proofs about every step use these and do not unfold `step`. -/

namespace Sys2Proof.Machine

/-- The block after RunCommand(w) (R78). -/
def commandAfter (w : Word) (b : Block) : Block :=
  match decode w with
  | .error e => refuse e b
  | .ok i => finish (operandCheck i b) (resultOf i b) b

/-- The block after one event. -/
def blockAfter (e : HostEvent) (b : Block) : Block :=
  match e with
  | .reset => Block.reset
  | .access (.read _ _) => b
  | .access (.write off size v) =>
    match admittedReg off size with
    | none => b
    | some .cmd => commandAfter v b
    | some r => writeReg r v b

/-- The answer to one event: one response to an access, none to a reset. -/
def answerTo (e : HostEvent) (b : Block) : List Response :=
  match e with
  | .reset => []
  | .access (.read off size) =>
    match admittedReg off size with
    | none => [.busError]
    | some r => [.data (readReg r b)]
  | .access (.write off size _) =>
    match admittedReg off size with
    | none => [.busError]
    | some _ => [.done]

theorem runCommand_eq (w : Word) (s : State) : runCommand w s = .next (s.withBlock (commandAfter w)) := by
  unfold runCommand
  split <;> rename_i h
  · rw [exec_eq]; simp [State.withBlock, commandAfter, h]
  · simp [State.withBlock, commandAfter, h]

theorem performEvent_eq (e : HostEvent) (s : State) :
    performEvent e s = .next
      { block := blockAfter e s.block, hostQueue := s.hostQueue, responses := s.responses ++ answerTo e s.block } := by
  match e with
  | .reset => simp [performEvent, State.withBlock, blockAfter, answerTo]
  | .access (.read off size) =>
    simp only [performEvent, performAccess, blockAfter, answerTo]
    cases admittedReg off size <;> rfl
  | .access (.write off size v) =>
    simp only [performEvent, performAccess, blockAfter, answerTo]
    cases admittedReg off size with
    | none => rfl
    | some r => cases r <;> simp only [performWrite, runCommand_eq] <;> rfl

/-- A step with nothing waiting. -/
theorem step_nil (b : Block) (rs : List Response) : step ⟨b, [], rs⟩ = .next ⟨b, [], rs⟩ := rfl

/-- A step with an event waiting. -/
theorem step_cons (b : Block) (e : HostEvent) (q : List HostEvent) (rs : List Response) :
    step ⟨b, e :: q, rs⟩ = .next ⟨blockAfter e b, q, rs ++ answerTo e b⟩ := by
  simp only [step, performNext]
  rw [performEvent_eq]

/-- Everything a step can do: hold the state, or perform the first waiting event. -/
theorem step_cases {s t : State} (h : step s = .next t) :
    (s.hostQueue = [] ∧ t = s) ∨
    (∃ e q, s.hostQueue = e :: q ∧
      t = { block := blockAfter e s.block, hostQueue := q, responses := s.responses ++ answerTo e s.block }) := by
  obtain ⟨b, q, rs⟩ := s
  cases q with
  | nil => rw [step_nil] at h; cases h; exact .inl ⟨rfl, rfl⟩
  | cons e q => rw [step_cons] at h; cases h; exact .inr ⟨e, q, rfl, rfl⟩

@[simp] theorem blockAfter_reset (b : Block) : blockAfter .reset b = Block.reset := rfl

@[simp] theorem blockAfter_read (off size : Nat) (b : Block) : blockAfter (.access (.read off size)) b = b := rfl

/-- The block after an admitted write to a register other than CMD (R54). -/
theorem blockAfter_write {r : Reg} (hr : r ≠ .cmd) (v : Word) (b : Block) :
    blockAfter (.access (.write (regOffset r) 4 v)) b = writeReg r v b := by
  cases r <;> first | rfl | exact absurd rfl hr

/-- The block after a write to CMD (R78). -/
theorem blockAfter_command (w : Word) (b : Block) :
    blockAfter (.access (.write (regOffset .cmd) 4 w)) b = commandAfter w b := rfl

/-- A command ends refused or completed, whatever its word (R78). -/
theorem commandAfter_cases (w : Word) (b : Block) :
    (∃ e, commandAfter w b = refuse e b) ∨
    (∃ i, decode w = .ok i ∧ operandCheck i b = none ∧ commandAfter w b = complete (resultOf i b) b) := by
  unfold commandAfter
  split
  · exact .inl ⟨_, rfl⟩
  · rename_i i hi
    rcases finish_cases (operandCheck i b) (resultOf i b) b with ⟨e, -, h⟩ | ⟨hc, h⟩
    · exact .inl ⟨e, h⟩
    · exact .inr ⟨i, hi, hc, h⟩

/-- Every event's effect on the block is one of four: none, a register write, a command (`commandAfter_cases`), a
reset. Invariants of the block need no more than this. -/
theorem blockAfter_cases (e : HostEvent) (b : Block) :
    blockAfter e b = b ∨
    (∃ r v, Writes e r v ∧ r ≠ .cmd ∧ blockAfter e b = writeReg r v b) ∨
    (∃ w, Writes e .cmd w ∧ blockAfter e b = commandAfter w b) ∨
    (e = .reset ∧ blockAfter e b = Block.reset) := by
  match e with
  | .reset => exact .inr (.inr (.inr ⟨rfl, rfl⟩))
  | .access (.read _ _) => exact .inl rfl
  | .access (.write off size v) =>
    cases h : admittedReg off size with
    | none => exact .inl (by simp [blockAfter, h])
    | some r =>
      obtain ⟨rfl, rfl⟩ := admittedReg_eq_some.mp h
      by_cases hr : r = .cmd
      · subst hr; exact .inr (.inr (.inl ⟨v, rfl, rfl⟩))
      · exact .inr (.inl ⟨r, v, rfl, hr, blockAfter_write hr v b⟩)

end Sys2Proof.Machine
end

