-- ==== Sys2Proof/Laws/Run.lean ====
section
/-! SUPPORT. Runs of several steps, one step at a time. -/

namespace Sys2Proof.Machine

/-- A run's first step, when it answers a next state. -/
theorem core_run_succ {k : Nat} {s t : State} (h : step s = .next t) :
    Host.Core.run Sys2Proof.core (k + 1) s = Host.Core.run Sys2Proof.core k t := by
  simp only [Host.Core.run, show Sys2Proof.core.step s = .next t from h]

/-- A run's first step, in terms of its event. -/
theorem core_run_cons (k : Nat) (b : Block) (e : HostEvent) (q : List HostEvent) (rs : List Response) :
    Host.Core.run Sys2Proof.core (k + 1) (⟨b, e :: q, rs⟩ : State) =
      Host.Core.run Sys2Proof.core k (⟨blockAfter e b, q, rs ++ answerTo e b⟩ : State) :=
  core_run_succ (step_cons b e q rs)

/-- A run of no steps. -/
@[simp] theorem core_run_zero (s : State) : Host.Core.run Sys2Proof.core 0 s = .next s := rfl

/-- A run goes on from where its first `k` steps have led. -/
theorem core_run_add {k : Nat} {s t : State} (h : Host.Core.run Sys2Proof.core k s = .next t) (m : Nat) :
    Host.Core.run Sys2Proof.core (k + m) s = Host.Core.run Sys2Proof.core m t := by
  induction k generalizing s with
  | zero => cases h; rw [Nat.zero_add]
  | succ k ih =>
    obtain ⟨u, hu⟩ : ∃ u, step s = .next u := by
      obtain ⟨b, q, rs⟩ := s
      cases q with
      | nil => exact ⟨_, step_nil b rs⟩
      | cons e q => exact ⟨_, step_cons b e q rs⟩
    rw [core_run_succ hu] at h
    rw [Nat.add_right_comm, core_run_succ hu, ih h]

end Sys2Proof.Machine
end

