-- ==== Sys2Proof/Tests/Slice0.lean ====
section
/-! SUPPORT. Tests of the model on small states, expected values from spec/ (95_test_vectors.md and the rules'
own examples), and a witness for the hypotheses of each statement. -/

namespace Sys2Proof.Tests

open Sys2Proof Sys2Proof.Machine

/-- A block straight after reset but for its operand registers. -/
def withOperands (opa opb : Value) (opn : Len) : Block := { Block.reset with opa := opa, opb := opb, opn := opn }

/-- A machine with these registers, these events waiting, and nothing answered. -/
def machine (b : Block) (q : List HostEvent) : State := { block := b, hostQueue := q, responses := [] }

/-- RES and the STATUS word after one step. -/
def resAndStatus (s : State) : Option (Value × Word) :=
  match step s with
  | .next t => some (t.block.res, statusWord t.block)
  | _ => none

/-- The block, and the answers, after one step. -/
def blockAndAnswers (s : State) : Option (Block × List Response) :=
  match step s with
  | .next t => some (t.block, t.responses)
  | _ => none

/-! ### Well-formedness: R10's checks, one record each that only that check refuses; R50's three conditions -/

theorem test_cfg_ok : Config.cfg.wellFormed = true := by decide
theorem test_cfg_genLen_zero : ({ gen := 1, genLen := 0, codeLen := 15, errors := 1 } : Cfg).wellFormed = false := by decide
theorem test_cfg_genLen_17 : ({ gen := 0x13, genLen := 17, codeLen := 17, errors := 1 } : Cfg).wellFormed = false := by decide
theorem test_cfg_short_code : ({ gen := 0x13, genLen := 5, codeLen := 4, errors := 1 } : Cfg).wellFormed = false := by decide
theorem test_cfg_long_code : ({ gen := 0x13, genLen := 5, codeLen := 17, errors := 1 } : Cfg).wellFormed = false := by decide
theorem test_cfg_wide_gen : ({ gen := 0x33, genLen := 5, codeLen := 15, errors := 1 } : Cfg).wellFormed = false := by decide
theorem test_cfg_no_leading_one : ({ gen := 0x03, genLen := 5, codeLen := 15, errors := 1 } : Cfg).wellFormed = false := by decide
theorem test_cfg_derived : Config.cfg.dataLen = 11 := by decide
theorem test_access_size : admittedReg 0x0C 2 = none ∧ admittedReg 0x10 8 = none := by decide
theorem test_access_alignment : admittedReg 0x0E 4 = none ∧ admittedReg 0x11 4 = none := by decide
theorem test_access_map : admittedReg 0x20 4 = none ∧ admittedReg 0x3C 4 = none ∧ admittedReg 0x1C 4 = some .cfg1 := by decide

/-! ### Decoding: words written out from the encoding of R70 and R73 (OP in bits 3:0, zeros above) -/

theorem test_decode_mask : decode 0b00000000000000000000000000000001 = .ok .mask := by rfl
theorem test_decode_mod : decode 0b00000000000000000000000000000010 = .ok .mod := by rfl
theorem test_decode_enc : decode 0b00000000000000000000000000000011 = .ok .enc := by rfl
theorem test_decode_syn : decode 0b00000000000000000000000000000100 = .ok .syn := by rfl
theorem test_decode_hdist : decode 0b00000000000000000000000000000101 = .ok .hdist := by rfl
theorem test_decode_rsvd_beats_illop : decode 0x00000017 = .error .rsvd := by rfl
theorem test_decode_bit31 : decode 0x80000002 = .error .rsvd := by rfl
theorem test_decode_illegal : decode 0x00000000 = .error .illop ∧ decode 0x0000000F = .error .illop := ⟨rfl, rfl⟩
theorem test_table_word : decodeTableWord 32 3 = some .enc ∧ decodeTableWord 32 0x11 = none := by decide
theorem test_fetch_word :
    resAndStatus (State.reset.withFetchWord 32 2) = some (0x0000, 0x00000036) := by decide

/-! ### The commands: 95_test_vectors.md sections 3.1 to 3.6 -/

theorem test_mask_16 : resAndStatus (machine (withOperands 0xFFFF 0xFFFF 16) [cmd .mask]) = some (0xFFFF, 0x00000001) := by decide
theorem test_mask_17 : resAndStatus (machine (withOperands 0 0 17) [cmd .mask]) = some (0x0000, 0x00000036) := by decide
theorem test_mod_scan : resAndStatus (machine (withOperands 0xABCD 0x000B 4) [cmd .mod]) = some (0x0005, 0x00000001) := by decide
theorem test_mod_digits_16 : resAndStatus (machine (withOperands 0xFFFF 0x8005 16) [cmd .mod]) = some (0x7FFA, 0x00000001) := by decide
theorem test_mod_wide_divisor : resAndStatus (machine (withOperands 0x1234 0x0033 5) [cmd .mod]) = some (0x0000, 0x00000046) := by decide
theorem test_enc_5A3 : resAndStatus (machine (withOperands 0x05A3 0 0) [cmd .enc]) = some (0x5A37, 0x00000001) := by decide
theorem test_enc_800 : resAndStatus (machine (withOperands 0x0800 0 0) [cmd .enc]) = some (0x0000, 0x00000056) := by decide
theorem test_syn_flipped : resAndStatus (machine (withOperands 0x5237 0 0) [cmd .syn]) = some (0x000E, 0x00000001) := by decide
theorem test_syn_8000 : resAndStatus (machine (withOperands 0x8000 0 0) [cmd .syn]) = some (0x0000, 0x00000056) := by decide
theorem test_hdist_top_bit : resAndStatus (machine (withOperands 0x8000 0x0000 31) [cmd .hdist]) = some (0x0001, 0x00000001) := by decide
theorem test_hdist_16 : resAndStatus (machine (withOperands 0x5555 0xAAAA 0) [cmd .hdist]) = some (0x0010, 0x00000001) := by decide
theorem test_raw_scan : gf2Mod 0x8000 0b00011 5 = 0x9AF1 := by decide

/-! ### Register access, bus errors, STICKY and reset: section 3.7 and program P4 -/

/-- The block after `sw CMD, 0` from reset (section 3.7). -/
def afterStrayZero : Block := { Block.reset with err := true, sticky := true, ecode := 0x2 }

theorem test_read_cfg1 :
    blockAndAnswers (machine Block.reset [lw .cfg1]) = some (Block.reset, [.data 0x010B0F05]) := by decide
theorem test_read_status :
    blockAndAnswers (machine afterStrayZero [lw .status]) = some (afterStrayZero, [.data 0x00000026]) := by decide
theorem test_write_opa_cut :
    blockAndAnswers (machine Block.reset [sw .opa 0xFFFF1234]) = some (withOperands 0x1234 0 0, [.done]) := by decide
theorem test_write_opn_cut :
    blockAndAnswers (machine Block.reset [sw .opn 0x000000FF]) = some (withOperands 0 0 31, [.done]) := by decide
theorem test_clear_sticky :
    blockAndAnswers (machine afterStrayZero [sw .status 0xFFFFFFFF]) =
      some ({ afterStrayZero with sticky := false }, [.done]) := by decide
theorem test_status_write_without_bit2 :
    blockAndAnswers (machine afterStrayZero [sw .status 0x00000003]) = some (afterStrayZero, [.done]) := by decide
theorem test_two_byte_command :
    blockAndAnswers (machine Block.reset [.access (.write 0x0C 2 0x00000003)]) = some (Block.reset, [.busError]) := by decide
theorem test_byte_clear :
    blockAndAnswers (machine afterStrayZero [.access (.write 0x15 1 0x00000004)]) =
      some (afterStrayZero, [.busError]) := by decide
theorem test_reset_step : blockAndAnswers (machine afterStrayZero [.reset]) = some (Block.reset, []) := by decide

/-! ### Witnesses: for each statement with hypotheses, a state and operands that meet them -/

theorem witness_MaskFollowsItsRule :
    ∃ s u : State, s.block.opn.toNat ≤ 16 ∧ s.block.opn.toNat = 16 ∧ 16 < u.block.opn.toNat :=
  ⟨machine (withOperands 0 0 16) [], machine (withOperands 0 0 17) [], by decide⟩
theorem witness_ModFollowsItsRule_accepted :
    ∃ s : State, 1 ≤ s.block.opn.toNat ∧ s.block.opn.toNat ≤ 16 ∧ s.block.opb >>> (s.block.opn.toNat - 1) = 1 :=
  ⟨machine (withOperands 0xFFFF 0x8005 16) [], by decide⟩
theorem witness_ModFollowsItsRule_len :
    ∃ s u : State, s.block.opn.toNat = 0 ∧ 16 < u.block.opn.toNat :=
  ⟨machine (withOperands 0 0 0) [], machine (withOperands 0 0 17) [], by decide⟩
theorem witness_ModFollowsItsRule_divisor :
    ∃ s : State, 1 ≤ s.block.opn.toNat ∧ s.block.opn.toNat ≤ 16 ∧ s.block.opb >>> (s.block.opn.toNat - 1) ≠ 1 :=
  ⟨machine (withOperands 0x1234 0 1) [], by decide⟩
theorem witness_ModFollowsItsRule_corners :
    ∃ (a d d' : Value) (n : Nat), 1 ≤ n ∧ n ≤ 16 ∧ d >>> (n - 1) = 1 ∧ a.toNat < 2 ^ (n - 1) ∧ d' >>> 15 = 1 :=
  ⟨0x000F, 0x0013, 0x8005, 5, by decide⟩
theorem witness_EncFollowsItsRule :
    ∃ s u : State, s.block.opa.toNat < 0x0800 ∧ 0x0800 ≤ u.block.opa.toNat :=
  ⟨machine (withOperands 0x07FF 0 0) [], machine (withOperands 0x0800 0 0) [], by decide⟩
theorem witness_SynFollowsItsRule :
    ∃ (s u : State) (w r : Value), s.block.opa.toNat < 0x8000 ∧ 0x8000 ≤ u.block.opa.toNat ∧
      w.toNat < 0x0800 ∧ r.toNat < 16 :=
  ⟨machine (withOperands 0x7FFF 0 0) [], machine (withOperands 0x8000 0 0) [], 0x07FF, 0x000F, by decide⟩
theorem witness_CommandFrame : ∃ (i : Instr) (s t : State), exec i s = .next t :=
  ⟨.mod, machine (withOperands 0x10 0x13 5) [], _, rfl⟩
theorem witness_CommandsIgnoreStatusAndResult :
    ∃ s u : State, s.block.opa = u.block.opa ∧ s.block.opb = u.block.opb ∧ s.block.opn = u.block.opn ∧
      s.block ≠ u.block :=
  ⟨machine Block.reset [], machine afterStrayZero [], by decide⟩
theorem witness_MaskHasItsLowBits : ∃ len k : Nat, len ≤ 16 ∧ k < 16 := ⟨16, 15, by decide⟩
theorem witness_RemainderIsTheScan :
    ∃ (d : Value) (n : Nat), 1 ≤ n ∧ n ≤ 16 ∧ divisorOk d n = true := ⟨0x8005, 16, by decide⟩
theorem witness_ModResultIsBelowDivisorDegree :
    ∃ s : State, divisorOk s.block.opb s.block.opn.toNat = true := ⟨machine (withOperands 0xFFFF 1 1) [], by decide⟩
theorem witness_RemainderFixesSmallDividends :
    ∃ (a : Value) (n : Nat), 1 ≤ n ∧ n ≤ 16 ∧ a.toNat < 2 ^ (n - 1) := ⟨0x1234, 16, by decide⟩
theorem witness_RemainderIsPolynomialRemainder :
    ∃ (a d : Value) (n : Nat) (pa pd : Polynomial (ZMod 2)),
      divisorOk d n = true ∧ IsPoly a pa ∧ IsPoly d pd := by
  refine ⟨1, 2, 2, 1, Polynomial.X, by decide, fun k => ?_, fun k => ?_⟩
  · rw [Polynomial.coeff_one]; rcases k with _ | k <;> simp [BitVec.getLsbD_one]
  · rw [Polynomial.coeff_X]
    rcases k with _ | _ | k
    · decide
    · decide
    · rw [if_neg (by omega), show (2 : Value) = 2#16 from rfl, BitVec.getLsbD_ofNat, Nat.testBit_lt_two_pow]
      · simp
      · exact lt_of_lt_of_le (by decide : 2 < 2 ^ 2) (Nat.pow_le_pow_right (by decide) (by omega))
theorem witness_RemainderIsLinear : ∃ (d : Value) (n : Nat), divisorOk d n = true := ⟨0x0013, 5, by decide⟩
theorem witness_EncodingIsSystematic :
    ∃ (c : Cfg) (w : Value), c.wellFormed = true ∧ w.toNat < 2 ^ c.dataLen := ⟨Config.cfg, 0x07FF, by decide⟩
theorem witness_EncodedWordHasZeroSyndrome :
    ∃ s : State, s.block.opa.toNat < 2 ^ Config.cfg.dataLen := ⟨machine (withOperands 0x07FF 0 0) [], by decide⟩
theorem witness_MinimumDistanceIsThree :
    ∃ w w' : Value, w.toNat < 2 ^ 11 ∧ w'.toNat < 2 ^ 11 ∧ w ≠ w' := ⟨0x0000, 0x07FF, by decide⟩
theorem witness_MinimumDistanceIsThree_equal :
    ∃ w w' : Value, w.toNat < 2 ^ 11 ∧ w'.toNat < 2 ^ 11 ∧
      bchEncode Config.cfg w = bchEncode Config.cfg w' := ⟨0x07FF, 0x07FF, by decide⟩
theorem witness_SyndromeSeesOnlyTheError :
    ∃ (c : Cfg) (w e : Value), c.wellFormed = true ∧ w.toNat < 2 ^ c.dataLen ∧ e.toNat < 2 ^ c.codeLen ∧
      ∃ x : Value, x.toNat < 2 ^ c.dataLen ∧ e = bchEncode c x :=
  ⟨Config.cfg, 0x07FF, 0x0013, by decide, by decide, by decide, 0x0001, by decide, by decide⟩
theorem witness_SingleErrorSyndromesDiffer : ∃ i j : Nat, i < 15 ∧ j < 15 ∧
    syndrome Config.cfg ((1 : Value) <<< i) = syndrome Config.cfg ((1 : Value) <<< j) := ⟨14, 14, by decide⟩
theorem witness_SingleErrorIsCorrectable :
    ∃ (w : Value) (i j k : Nat), w.toNat < 2 ^ 11 ∧ i < 15 ∧ j < 15 ∧ k < 15 ∧ i = j ∧ i ≠ k :=
  ⟨0x07FF, 14, 14, 0, by decide⟩
theorem witness_HammingIsAMetric : ∃ x y : Value, hamming x y = 0 := ⟨0x1234, 0x1234, by decide⟩
theorem witness_CodewordDistanceIsAtMostFifteen :
    ∃ a b : Value, a.toNat < 2 ^ 15 ∧ b.toNat < 2 ^ 15 := ⟨0x0000, 0x7FFF, by decide⟩
theorem witness_DecodeInvertsEncode :
    ∃ (i j : Instr) (w : Word), i.wellFormed = true ∧ w &&& 0xFFFFFFFF = encode i ∧ w &&& 0xFFFFFFFF = encode j :=
  ⟨.hdist, .hdist, 5, by decide⟩
theorem witness_OtherWordsAreRefusedByName :
    ∃ w₁ w₂ w₃ w₄ : Word, 16 ≤ w₁.toNat ∧ w₂.toNat = 0 ∧ (6 ≤ w₃.toNat ∧ w₃.toNat < 16) ∧ w₄.toNat = 5 :=
  ⟨0x00000010, 0, 0x0000000F, 5, by decide⟩
theorem witness_StepRunsTheDecodedCommand :
    ∃ (s : State) (q : List HostEvent) (w : Word) (i : Instr),
      s.hostQueue = .access (.write 0x0C 4 w) :: q ∧ decode w = .ok i ∧ i.wellFormed = true :=
  ⟨machine Block.reset [cmd .syn], [], 4, .syn, rfl, rfl, rfl⟩
theorem witness_CmdWriteIsRunCommand :
    ∃ (s : State) (q : List HostEvent) (w : Word), s.hostQueue = .access (.write 0x0C 4 w) :: q :=
  ⟨machine Block.reset [sw .cmd 0xFFFFFFFF], [], 0xFFFFFFFF, rfl⟩
theorem witness_ErrorPriorityExamples : ∃ b : Block, b.opn = 0 ∧ b.opb = 0 := ⟨withOperands 0x1234 0 0, by decide⟩
theorem witness_CommandsAfterReset : ∃ i : Instr, i ≠ .mod := ⟨.mask, by decide⟩
theorem witness_OperandRegistersFollowTheirRules_write :
    ∃ (s t : State) (v : Word), s.hostQueue = [.access (.write 0x08 4 v)] ∧ step s = .next t :=
  ⟨machine Block.reset [sw .opn 0xFF], _, 0xFF, rfl, rfl⟩
theorem witness_OperandRegistersFollowTheirRules_reset :
    ∃ s t : State, s.hostQueue = [.reset] ∧ step s = .next t := ⟨machine (withOperands 1 2 3) [.reset], _, rfl, rfl⟩
theorem witness_OperandRegistersFollowTheirRules_other :
    ∃ (s t : State) (e : HostEvent), s.hostQueue = [e] ∧ step s = .next t ∧ e ≠ .reset ∧
      (∀ v, e ≠ .access (.write 0x00 4 v)) ∧ (∀ v, e ≠ .access (.write 0x04 4 v)) ∧
      (∀ v, e ≠ .access (.write 0x08 4 v)) := by
  refine ⟨machine (withOperands 1 2 3) [cmd .hdist], _, cmd .hdist, rfl, rfl, by decide, ?_, ?_, ?_⟩ <;>
    · intro v h; cases h
theorem witness_ResultRegisterFollowsItsRule_commands :
    ∃ (s t u v : State) (w : Word), s.hostQueue = [.access (.write 0x0C 4 w)] ∧ step s = .next t ∧
      specCheck w s.block.opa s.block.opb s.block.opn = 0 ∧
      u.hostQueue = [.access (.write 0x0C 4 w)] ∧ step u = .next v ∧
      specCheck w u.block.opa u.block.opb u.block.opn ≠ 0 :=
  ⟨machine (withOperands 0 0 16) [cmd .mask], _, machine (withOperands 0 0 17) [cmd .mask], _, 1,
    rfl, rfl, by decide, rfl, rfl, by decide⟩
theorem witness_ResultRegisterFollowsItsRule_other :
    ∃ (s t : State) (e : HostEvent), s.hostQueue = [e] ∧ step s = .next t ∧ e ≠ .reset ∧
      ∀ w, e ≠ .access (.write 0x0C 4 w) := by
  refine ⟨machine (withOperands 1 2 3) [sw .res 7], _, sw .res 7, rfl, rfl, by decide, ?_⟩
  intro w h; cases h
theorem witness_StatusFieldsFollowTheirRules_commands :
    ∃ (s t u v : State) (w : Word), s.hostQueue = [sw .cmd w] ∧ step s = .next t ∧ Writes (sw .cmd w) .cmd w ∧
      specCheck w s.block.opa s.block.opb s.block.opn = 0 ∧
      u.hostQueue = [sw .cmd w] ∧ step u = .next v ∧ specCheck w u.block.opa u.block.opb u.block.opn ≠ 0 :=
  ⟨machine (withOperands 0x7FFF 0 0) [cmd .syn], _, machine (withOperands 0x8000 0 0) [cmd .syn], _, 4,
    rfl, rfl, rfl, by decide, rfl, rfl, by decide⟩
theorem witness_StatusFieldsFollowTheirRules_status :
    ∃ (s t : State) (v : Word), s.hostQueue = [sw .status v] ∧ step s = .next t ∧ Writes (sw .status v) .status v ∧
      v.getLsbD 2 = true :=
  ⟨machine afterStrayZero [sw .status 4], _, 4, rfl, rfl, rfl, by decide⟩
theorem witness_StatusFieldsFollowTheirRules_other :
    ∃ (s t : State) (e : HostEvent), s.hostQueue = [e] ∧ step s = .next t ∧
      ¬ IsCommand e ∧ ¬ ClearsSticky e ∧ e ≠ .reset := by
  refine ⟨machine afterStrayZero [sw .status 3], _, sw .status 3, rfl, rfl, ?_, ?_, by decide⟩
  · rintro ⟨w, hw⟩; exact absurd hw (by simp [Writes, sw, regOffset])
  · rintro ⟨v, hv, hb⟩
    have : v = 3 := by simpa [Writes, sw, regOffset, eq_comm] using hv
    subst this; exact absurd hb (by decide)
theorem witness_StatusFieldsFollowTheirRules_reset :
    ∃ s t : State, s.hostQueue = [.reset] ∧ step s = .next t := ⟨machine afterStrayZero [.reset], _, rfl, rfl⟩
theorem witness_ReadMap_and_WriteMap :
    ∃ off size : Nat, ¬(size = 4 ∧ off ∈ [0x00, 0x04, 0x08, 0x0C, 0x10, 0x14, 0x18, 0x1C]) := ⟨0x20, 4, by decide⟩
theorem witness_BusErrorsChangeNothing :
    ∃ off₁ off₂ off₃ off₄ size₁ : Nat, size₁ ≠ 4 ∧ off₁ % 4 ≠ 0 ∧ 0x20 ≤ off₂ ∧
      (off₃ % 4 = 0 ∧ off₃ < 0x20) ∧ (off₄ % 4 = 0 ∧ off₄ < 0x20) := ⟨0x1D, 0x20, 0x1C, 0x00, 8, by decide⟩
theorem witness_RepeatedAccessChangesNothingMore :
    ∃ (b : Block) (a : Access) (t u : State),
      step (machine b [.access a, .access a]) = .next t ∧ step t = .next u :=
  ⟨withOperands 0x8000 0 0, .write 0x0C 4 4, _, _, rfl, rfl⟩
theorem witness_RepeatedAccessChangesNothingMore_read :
    ∃ (b : Block) (t : State), step (machine b [.access (.read 0x14 4)]) = .next t := ⟨afterStrayZero, _, rfl⟩
theorem witness_EveryStepKeepsStatusInv :
    ∃ s t : State, StatusInv s.block ∧ step s = .next t :=
  ⟨machine afterStrayZero [cmd .mask], _, ⟨by decide, by decide, by decide⟩, rfl⟩
theorem witness_StickyFollowsErrUntilCleared :
    ∃ s t : State, StickyInv s.block ∧ step s = .next t ∧
      ∀ e, s.hostQueue.head? = some e → ¬ ClearsSticky e := by
  refine ⟨machine afterStrayZero [cmd .mod], _, fun _ => rfl, rfl, fun e he => ?_⟩
  cases he
  rintro ⟨v, hv, -⟩
  cases hv
theorem witness_StickySummarisesABatch :
    ∃ s t : State, s.block.sticky = false ∧ (∀ e ∈ s.hostQueue, e ≠ .reset ∧ ¬ ClearsSticky e) ∧
      Host.Core.run Sys2Proof.core s.hostQueue.length s = .next t := by
  refine ⟨machine (withOperands 0x0800 0 0) [cmd .enc, cmd .syn], _, rfl, fun e he => ?_, rfl⟩
  simp only [machine, List.mem_cons, List.not_mem_nil, or_false] at he
  rcases he with rfl | rfl
  · exact ⟨by decide, fun ⟨v, hv, _⟩ => by cases hv⟩
  · exact ⟨by decide, fun ⟨v, hv, _⟩ => by cases hv⟩
theorem witness_NothingHiddenDecidesAStep :
    ∃ (s u s' u' : State) (e : HostEvent) (q p : List HostEvent),
      s.hostQueue = e :: q ∧ u.hostQueue = e :: p ∧ s.block = u.block ∧ step s = .next s' ∧ step u = .next u' :=
  ⟨machine afterStrayZero [lw .status], machine afterStrayZero [lw .status, .reset], _, _, lw .status, [], [.reset],
    rfl, rfl, rfl, rfl, rfl⟩
theorem witness_ObservationIsWhatReadsReturn :
    ∃ off₁ size₁ off₂ size₂ : Nat,
      ¬(size₁ = 4 ∧ off₁ ∈ [0x00, 0x04, 0x08, 0x0C, 0x10, 0x14, 0x18, 0x1C]) ∧
      ¬(size₂ = 4 ∧ off₂ ∈ [0x00, 0x04, 0x08, 0x0C, 0x10, 0x14, 0x18, 0x1C]) := ⟨0x20, 4, 0x1C, 2, by decide⟩
theorem witness_ObservationIsWhatReadsReturn_equal :
    ∃ s u : State, observation s = observation u ∧ s ≠ u :=
  ⟨machine afterStrayZero [], machine afterStrayZero [.reset], by decide⟩
theorem witness_RunObservationsCompose :
    ∃ (b : Block) (q₁ q₂ : List HostEvent) (t₁ t₂ : State),
      Host.Core.run Sys2Proof.core q₁.length (machine b q₁) = .next t₁ ∧
      Host.Core.run Sys2Proof.core q₂.length (machine t₁.block q₂) = .next t₂ :=
  ⟨withOperands 0x05A3 0 0, [cmd .enc], [lw .res, .reset], _, _, rfl, rfl⟩
theorem witness_OpcodeMapWords :
    ∃ (op op' : Nat) (w : Word), (0x6 ≤ op ∧ op ≤ 0xF ∧ op = 0x6) ∧ (0x6 ≤ op' ∧ op' ≤ 0xF ∧ op' = 0xF) ∧
      w >>> 4 ≠ 0 := ⟨0x6, 0xF, 0x00000010, by decide⟩
theorem test_observation :
    observation { block := afterStrayZero, hostQueue := [], responses := [.done, .data 0x26, .busError] } =
      { answers := [.data 0x26, .busError], endBlock := afterStrayZero } := by decide
theorem witness_PseudoInstructionsRun :
    ∃ (b : Block) (x y n : Word), b.opa = x.extractLsb' 0 16 ∧ b.opb = y.extractLsb' 0 16 ∧
      b.opn = n.extractLsb' 0 5 := ⟨withOperands 0x1234 0x0013 5, 0xFFFF1234, 0x13, 0x25, by decide⟩
theorem witness_ByteLanesAreLittleEndian : ∃ k j : Nat, k < 4 ∧ j < 8 := ⟨3, 7, by decide⟩
theorem test_byte_lanes : byteLane 0x12345678 0 = 0x78 ∧ byteLane 0x12345678 3 = 0x12 := by decide

end Sys2Proof.Tests
end

/-! # Proofs: the state family (10_state.md)

First the facts the obligations share: RunCommand in the spec's words, what an event does to the registers, the STATUS
word, and one access at a time. Then the obligations. -/

namespace Sys2Proof.Machine

/-! ## Command words in the terms of R162 and R78 -/

theorem rsvdField_eq_zero_iff (w : Word) : rsvdField w = 0 ↔ w >>> 4 = 0 := by
  rw [← BitVec.toNat_inj, ← BitVec.toNat_inj]
  simp [rsvdField, Nat.shiftRight_eq_div_pow]
  omega

theorem and_0xF_eq_opField (w : Word) : w &&& 0xF = (opField w).setWidth 32 := by
  apply BitVec.eq_of_toNat_eq
  have := Nat.and_two_pow_sub_one_eq_mod w.toNat 4
  simp [opField] at *
  omega

/-- A word with no reserved bit set is its opcode (R70). -/
theorem eq_opField_of_rsvdField_eq_zero {w : Word} (h : rsvdField w = 0) : w = (opField w).setWidth 32 := by
  rw [rsvdField_eq_zero_iff, ← BitVec.toNat_inj] at h
  apply BitVec.eq_of_toNat_eq
  simp [opField, Nat.shiftRight_eq_div_pow] at *
  omega

theorem decode_encode (i : Instr) : decode (encode i) = .ok i := by cases i <;> rfl

/-- A word has a reserved bit set, or an opcode outside 1 to 5, or is the word of a command (R75 to R77). -/
theorem decode_cases (w : Word) :
    (w >>> 4 ≠ 0 ∧ decode w = .error .rsvd) ∨
    (w >>> 4 = 0 ∧ (w &&& 0xF = 0 ∨ 5 < (w &&& 0xF).toNat) ∧ decode w = .error .illop) ∨
    ∃ i, w = encode i := by
  rw [ne_eq, ← rsvdField_eq_zero_iff, and_0xF_eq_opField, decode]
  by_cases hr : rsvdField w = 0
  · have hw := eq_opField_of_rsvdField_eq_zero hr
    rw [if_neg (not_not.mpr hr)]
    split
    case h_1 h => exact .inr (.inr ⟨.mask, by rw [hw, h]; rfl⟩)
    case h_2 h => exact .inr (.inr ⟨.mod, by rw [hw, h]; rfl⟩)
    case h_3 h => exact .inr (.inr ⟨.enc, by rw [hw, h]; rfl⟩)
    case h_4 h => exact .inr (.inr ⟨.syn, by rw [hw, h]; rfl⟩)
    case h_5 h => exact .inr (.inr ⟨.hdist, by rw [hw, h]; rfl⟩)
    case h_6 h₁ h₂ h₃ h₄ h₅ =>
      refine .inr (.inl ⟨hr, ?_, rfl⟩)
      clear hw
      generalize opField w = op at h₁ h₂ h₃ h₄ h₅
      revert op
      decide
  · exact .inl ⟨hr, if_pos hr⟩

theorem commandAfter_of_error {w : Word} {e : CmdError} (h : decode w = .error e) (b : Block) :
    commandAfter w b = refuse e b := by simp [commandAfter, h]

theorem commandAfter_encode (i : Instr) (b : Block) :
    commandAfter (encode i) b = finish (operandCheck i b) (resultOf i b) b := by
  simp [commandAfter, decode_encode]

/-- For a number of digits that passes MOD's LEN check, the divisor check is the comparison of R162. -/
theorem divisorOk_eq_true_iff {d : Value} {n : Nat} (h0 : n ≠ 0) (h16 : n ≤ 16) :
    divisorOk d n = true ↔ d >>> (n - 1) = 1 := by
  simp [divisorOk, Nat.one_le_iff_ne_zero, h0, h16]

/-- `check` of a command's word is the code of its operand check (R162). -/
theorem specCheck_encode (i : Instr) (b : Block) :
    specCheck (encode i) b.opa b.opb b.opn = (operandCheck i b).elim 0 errorCode := by
  cases i
  case mask => simp [specCheck, encode, operandCheck, maskCheck]; split <;> rfl
  case mod =>
    have hcheck : specCheck (encode .mod) b.opa b.opb b.opn =
        if b.opn = 0 ∨ 16 < b.opn.toNat then 0x3 else if b.opb >>> (b.opn.toNat - 1) ≠ 1 then 0x4 else 0x0 := by
      simp [specCheck, encode]
    have hzero : b.opn = 0 ↔ b.opn.toNat = 0 := by rw [← BitVec.toNat_inj]; rfl
    simp only [hcheck, operandCheck, modCheck, hzero]
    by_cases hlen : b.opn.toNat = 0 ∨ 16 < b.opn.toNat
    · rw [if_pos hlen, if_pos hlen]; rfl
    · rw [if_neg hlen, if_neg hlen]
      have hdiv := divisorOk_eq_true_iff (d := b.opb) (n := b.opn.toNat) (by omega) (by omega)
      by_cases hd : b.opb >>> (b.opn.toNat - 1) = 1
      · rw [if_neg (not_not.mpr hd), if_pos (hdiv.mpr hd)]; rfl
      · rw [if_pos hd, if_neg (mt hdiv.mp hd)]; rfl
  case enc => simp [specCheck, encode, operandCheck, rangeCheck]; split <;> rfl
  case syn => simp [specCheck, encode, operandCheck, rangeCheck]; split <;> rfl
  case hdist => rfl

/-- `result` of a command's word is the command's result (R72). -/
theorem specResult_encode (i : Instr) (b : Block) :
    specResult (encode i) b.opa b.opb b.opn = resultOf i b := by
  cases i <;> rfl

theorem specRunCommand_of_check_eq_zero {w : Word} {b : Block} (h : specCheck w b.opa b.opb b.opn = 0) :
    specRunCommand w b = complete (specResult w b.opa b.opb b.opn) b :=
  if_neg (not_not.mpr h)

theorem specRunCommand_of_check_ne_zero {w : Word} {b : Block} (h : specCheck w b.opa b.opb b.opn ≠ 0) :
    specRunCommand w b =
      { b with valid := false, err := true, ecode := specCheck w b.opa b.opb b.opn, sticky := true } :=
  if_pos h

theorem specRunCommand_of_check_eq_errorCode {w : Word} {b : Block} {e : CmdError}
    (h : specCheck w b.opa b.opb b.opn = errorCode e) : specRunCommand w b = refuse e b := by
  rw [specRunCommand_of_check_ne_zero (h ▸ errorCode_ne_zero e), h, refuse]

/-- The machine's RunCommand is the spec's, for all words (R78, R162). -/
theorem commandAfter_eq_specRunCommand (w : Word) (b : Block) : commandAfter w b = specRunCommand w b := by
  rcases decode_cases w with ⟨hr, hd⟩ | ⟨hr, hop, hd⟩ | ⟨i, rfl⟩
  · have hcheck : specCheck w b.opa b.opb b.opn = errorCode .rsvd := if_pos hr
    rw [commandAfter_of_error hd, specRunCommand_of_check_eq_errorCode hcheck]
  · have hcheck : specCheck w b.opa b.opb b.opn = errorCode .illop :=
      (if_neg (not_not.mpr hr)).trans (if_pos hop)
    rw [commandAfter_of_error hd, specRunCommand_of_check_eq_errorCode hcheck]
  · have hcheck := specCheck_encode i b
    rw [commandAfter_encode]
    cases h : operandCheck i b with
    | none =>
      rw [h] at hcheck
      rw [specRunCommand_of_check_eq_zero hcheck, specResult_encode, finish_none]
    | some e =>
      rw [h] at hcheck
      rw [specRunCommand_of_check_eq_errorCode hcheck, finish_some]

theorem blockAfter_of_writes_cmd {e : HostEvent} {w : Word} (h : Writes e .cmd w) (b : Block) :
    blockAfter e b = specRunCommand w b := by
  rw [h, blockAfter_command, commandAfter_eq_specRunCommand]

/-! ## What a command reads and leaves -/

theorem operandCheck_congr (i : Instr) {b c : Block} (ha : b.opa = c.opa) (hb : b.opb = c.opb) (hn : b.opn = c.opn) :
    operandCheck i b = operandCheck i c := by
  cases i <;> simp only [operandCheck, ha, hb, hn]

theorem resultOf_congr (i : Instr) {b c : Block} (ha : b.opa = c.opa) (hb : b.opb = c.opb) (hn : b.opn = c.opn) :
    resultOf i b = resultOf i c := by
  cases i <;> simp only [resultOf, ha, hb, hn]

/-- Whatever its word, a command leaves the operand registers (R22 to R24). -/
theorem commandAfter_operands (w : Word) (b : Block) :
    (commandAfter w b).opa = b.opa ∧ (commandAfter w b).opb = b.opb ∧ (commandAfter w b).opn = b.opn := by
  rcases commandAfter_cases w b with ⟨e, h⟩ | ⟨i, -, -, h⟩ <;> rw [h] <;> exact ⟨rfl, rfl, rfl⟩

/-! ## What a register write leaves -/

section
variable {r : Reg} (v : Word) (b : Block)

theorem writeReg_opa (h : r ≠ .opa) : (writeReg r v b).opa = b.opa := by
  cases r <;> simp [writeReg] at h ⊢

theorem writeReg_opb (h : r ≠ .opb) : (writeReg r v b).opb = b.opb := by
  cases r <;> simp [writeReg] at h ⊢

theorem writeReg_opn (h : r ≠ .opn) : (writeReg r v b).opn = b.opn := by
  cases r <;> simp [writeReg] at h ⊢

theorem writeReg_sticky (h : r ≠ .status) : (writeReg r v b).sticky = b.sticky := by
  cases r <;> simp [writeReg] at h ⊢

@[simp] theorem writeReg_res : (writeReg r v b).res = b.res := by cases r <;> simp [writeReg]
@[simp] theorem writeReg_valid : (writeReg r v b).valid = b.valid := by cases r <;> simp [writeReg]
@[simp] theorem writeReg_err : (writeReg r v b).err = b.err := by cases r <;> simp [writeReg]
@[simp] theorem writeReg_ecode : (writeReg r v b).ecode = b.ecode := by cases r <;> simp [writeReg]

/-- Only a write that clears STICKY changes it (R31). -/
theorem writeReg_sticky_of_not_clears {e : HostEvent} (hw : Writes e r v) (hc : ¬ ClearsSticky e) :
    (writeReg r v b).sticky = b.sticky := by
  by_cases hr : r = .status
  · subst hr
    have hbit : v.getLsbD 2 = false := Bool.eq_false_iff.mpr fun h => hc ⟨v, hw, h⟩
    rw [writeReg, writeStatus_sticky, hbit, Bool.not_false, Bool.and_true]
  · exact writeReg_sticky v b hr

end

theorem toValue_eq_extractLsb' (v : Word) : toValue v = v.extractLsb' 0 16 :=
  BitVec.setWidth_eq_extractLsb' (by decide)

theorem toLen_eq_extractLsb' (v : Word) : toLen v = v.extractLsb' 0 5 :=
  BitVec.setWidth_eq_extractLsb' (by decide)

/-! ## What an event leaves -/

/-- The frame of an event, for a register that only writes at `r` and resets change (RES, which commands change,
has CMD for its `r`): every other event leaves it. -/
theorem blockAfter_keeps {α : Type} (field : Block → α) (r : Reg)
    (hcmd : r ≠ .cmd → ∀ w b, field (commandAfter w b) = field b)
    (hreg : ∀ r' v b, r' ≠ .cmd → r' ≠ r → field (writeReg r' v b) = field b)
    {e : HostEvent} (hw : ∀ v, ¬ Writes e r v) (he : e ≠ .reset) (b : Block) :
    field (blockAfter e b) = field b := by
  rcases blockAfter_cases e b with h | ⟨r', v, hwr, hr', h⟩ | ⟨w, hwr, h⟩ | ⟨hreset, -⟩
  · rw [h]
  · rw [h]
    exact hreg r' v b hr' (by rintro rfl; exact hw v hwr)
  · rw [h]
    exact hcmd (by rintro rfl; exact hw w hwr) w b
  · exact absurd hreset he

/-- Only a command, a clear of STICKY and a reset change a STATUS field (R29 to R32). -/
theorem blockAfter_keeps_status {e : HostEvent} (hcmd : ¬ IsCommand e) (hclr : ¬ ClearsSticky e) (he : e ≠ .reset)
    (b : Block) :
    (blockAfter e b).valid = b.valid ∧ (blockAfter e b).err = b.err ∧ (blockAfter e b).sticky = b.sticky ∧
      (blockAfter e b).ecode = b.ecode := by
  rcases blockAfter_cases e b with h | ⟨r, v, hw, -, h⟩ | ⟨w, hw, -⟩ | ⟨hreset, -⟩
  · simp [h]
  · simp [h, writeReg_sticky_of_not_clears v b hw hclr]
  · exact absurd ⟨w, hw⟩ hcmd
  · exact absurd hreset he

/-! ## The STATUS invariants under each event -/

theorem statusInv_reset : StatusInv Block.reset := ⟨by decide, by decide, by decide⟩

theorem statusInv_refuse (e : CmdError) (b : Block) : StatusInv (refuse e b) :=
  ⟨by simp, by simpa using errorCode_ne_zero e, by simpa using errorCode_le_five e⟩

theorem statusInv_complete (x : Value) (b : Block) : StatusInv (complete x b) :=
  ⟨by simp, by simp, by simp⟩

theorem statusInv_writeReg (r : Reg) (v : Word) {b : Block} (h : StatusInv b) : StatusInv (writeReg r v b) := by
  simpa [StatusInv] using h

/-- A command establishes the invariant, whatever stood in STATUS before it. -/
theorem statusInv_commandAfter (w : Word) (b : Block) : StatusInv (commandAfter w b) := by
  rcases commandAfter_cases w b with ⟨e, h⟩ | ⟨i, -, -, h⟩ <;> rw [h]
  · exact statusInv_refuse e b
  · exact statusInv_complete _ b

theorem statusInv_blockAfter (e : HostEvent) {b : Block} (h : StatusInv b) : StatusInv (blockAfter e b) := by
  rcases blockAfter_cases e b with hb | ⟨r, v, -, -, hb⟩ | ⟨w, -, hb⟩ | ⟨-, hb⟩ <;> rw [hb]
  · exact h
  · exact statusInv_writeReg r v h
  · exact statusInv_commandAfter w b
  · exact statusInv_reset

theorem stickyInv_reset : StickyInv Block.reset := nofun

theorem stickyInv_commandAfter (w : Word) (b : Block) : StickyInv (commandAfter w b) := by
  rcases commandAfter_cases w b with ⟨e, h⟩ | ⟨i, -, -, h⟩ <;> rw [h]
  · exact fun _ => rfl
  · exact nofun

theorem stickyInv_blockAfter {e : HostEvent} (hc : ¬ ClearsSticky e) {b : Block} (h : StickyInv b) :
    StickyInv (blockAfter e b) := by
  rcases blockAfter_cases e b with hb | ⟨r, v, hw, -, hb⟩ | ⟨w, -, hb⟩ | ⟨-, hb⟩ <;> rw [hb]
  · exact h
  · rw [StickyInv, writeReg_err, writeReg_sticky_of_not_clears v b hw hc]
    exact h
  · exact stickyInv_commandAfter w b
  · exact stickyInv_reset

/-! ## The bits of the STATUS word (R28) -/

theorem getLsbD_flagWord (f : Bool) (k : Nat) : (flagWord f).getLsbD k = (decide (k = 0) && f) := by
  cases f <;> simp [flagWord]

theorem getLsbD_statusWord (b : Block) (k : Nat) :
    (statusWord b).getLsbD k =
      (decide (4 ≤ k) && b.ecode.getLsbD (k - 4) || decide (k = 2) && b.sticky ||
        decide (k = 1) && b.err || decide (k = 0) && b.valid) := by
  have hecode : 32 ≤ k → b.ecode.getLsbD (k - 4) = false := fun h => b.ecode.getLsbD_of_ge _ (by omega)
  simp only [statusWord, BitVec.getLsbD_or, BitVec.getLsbD_shiftLeft, BitVec.getLsbD_setWidth, getLsbD_flagWord]
  grind

/-- From bit 4 up, STATUS is ECODE, and zero above it. -/
theorem getLsbD_statusWord_of_four_le (b : Block) {k : Nat} (h : 4 ≤ k) :
    (statusWord b).getLsbD k = b.ecode.getLsbD (k - 4) := by
  simp [getLsbD_statusWord, h, show k ≠ 0 by omega, show k ≠ 1 by omega, show k ≠ 2 by omega]

theorem statusWord_reset : statusWord Block.reset = 0 := by decide

/-- A STATUS write, as one update of STICKY (R31). -/
theorem writeStatus_eq (v : Word) (b : Block) : writeStatus v b = { b with sticky := b.sticky && !v.getLsbD 2 } := by
  unfold writeStatus
  cases v.getLsbD 2 <;> simp

/-! ## One step, by its event -/

/-- A step with an event waiting performs that event. -/
theorem step_of_hostQueue {s t : State} {e : HostEvent} {q : List HostEvent} (hq : s.hostQueue = e :: q)
    (h : step s = .next t) : t = ⟨blockAfter e s.block, q, s.responses ++ answerTo e s.block⟩ := by
  obtain ⟨b, _, rs⟩ := s
  subst hq
  rw [step_cons] at h
  cases h
  rfl

/-- A read answers the register's value and changes nothing (R53). -/
theorem step_read (r : Reg) (b : Block) (q : List HostEvent) (rs : List Response) :
    step ⟨b, .access (.read (regOffset r) 4) :: q, rs⟩ = .next ⟨b, q, rs ++ [.data (readReg r b)]⟩ := by
  simp [step_cons, answerTo]

/-- A write to a register other than CMD changes that register at most, with a normal response (R54). -/
theorem step_write {r : Reg} (hr : r ≠ .cmd) (v : Word) (b : Block) (q : List HostEvent) (rs : List Response) :
    step ⟨b, .access (.write (regOffset r) 4 v) :: q, rs⟩ = .next ⟨writeReg r v b, q, rs ++ [.done]⟩ := by
  simp [step_cons, answerTo, blockAfter_write hr]

/-- A write to CMD is RunCommand, answered with the normal response (R35, R78). -/
theorem step_cmd_write {s : State} {w : Word} {q : List HostEvent}
    (hq : s.hostQueue = .access (.write (regOffset .cmd) 4 w) :: q) :
    step s = answer .done (runCommand w { s with hostQueue := q }) := by
  obtain ⟨b, _, rs⟩ := s
  subst hq
  rfl

theorem runCommand_of_ok {w : Word} {i : Instr} (h : decode w = .ok i) (s : State) : runCommand w s = exec i s := by
  simp only [runCommand, h]

theorem tableWord_toNat (w : Word) : tableWord 32 w.toNat = w := by
  rw [tableWord, BitVec.toNat_mod_cancel, BitVec.ofNat_toNat, BitVec.setWidth_eq]

/-! ## The obligations -/

/-- Settles O41: every event's effect on the block keeps the invariant, and a command establishes it. -/
theorem everyStepKeepsStatusInv : Obligations.EveryStepKeepsStatusInv := by
  intro s t hinv hstep
  rcases step_cases hstep with ⟨-, rfl⟩ | ⟨e, q, -, rfl⟩
  · exact hinv
  · exact statusInv_blockAfter e hinv

/-- Settles O6, from the one form of all five commands: an operand check and a result, ended by `finish`. -/
theorem commandFrame : Obligations.CommandFrame := by
  intro i s t h
  rw [exec_eq] at h
  cases h
  obtain ⟨ha, hb, hn⟩ := finish_operands (operandCheck i s.block) (resultOf i s.block) s.block
  refine ⟨ha, hb, hn, rfl, rfl, ?_⟩
  rw [withBlock_block]
  rcases finish_cases (operandCheck i s.block) (resultOf i s.block) s.block with ⟨e, -, h⟩ | ⟨-, h⟩ <;> rw [h]
  · exact .inl ⟨rfl, rfl, rfl, rfl⟩
  · exact .inr ⟨rfl, rfl, rfl⟩

/-- Settles O7: a command's check and its result are functions of the operand registers. -/
theorem commandsIgnoreStatusAndResult : Obligations.CommandsIgnoreStatusAndResult := by
  intro i s u ha hb hn
  refine ⟨_, _, exec_eq i s, exec_eq i u, ?_⟩
  simp only [withBlock_block, operandCheck_congr i ha hb hn, resultOf_congr i ha hb hn]
  cases operandCheck i u.block with
  | none => simp
  | some e => simp

/-- Settles O31, with the frame of an event for each operand register. -/
theorem operandRegistersFollowTheirRules : Obligations.OperandRegistersFollowTheirRules := by
  refine ⟨fun s t e q hq hstep => ?_,
    fun b q rs => ⟨step_read .opa b q rs, step_read .opb b q rs, step_read .opn b q rs⟩⟩
  obtain rfl := step_of_hostQueue hq hstep
  refine ⟨⟨?_, ?_, ?_⟩, ⟨?_, ?_, ?_⟩, ⟨?_, ?_, ?_⟩⟩
  · rintro v rfl; exact toValue_eq_extractLsb' v
  · rintro rfl; rfl
  · exact fun hw he => blockAfter_keeps Block.opa .opa (fun _ w b => (commandAfter_operands w b).1)
      (fun _ v b _ hr => writeReg_opa v b hr) hw he s.block
  · rintro v rfl; exact toValue_eq_extractLsb' v
  · rintro rfl; rfl
  · exact fun hw he => blockAfter_keeps Block.opb .opb (fun _ w b => (commandAfter_operands w b).2.1)
      (fun _ v b _ hr => writeReg_opb v b hr) hw he s.block
  · rintro v rfl; exact toLen_eq_extractLsb' v
  · rintro rfl; rfl
  · exact fun hw he => blockAfter_keeps Block.opn .opn (fun _ w b => (commandAfter_operands w b).2.2)
      (fun _ v b _ hr => writeReg_opn v b hr) hw he s.block

/-- Settles O32: a CMD write is the spec's RunCommand, and no register write reaches RES. -/
theorem resultRegisterFollowsItsRule : Obligations.ResultRegisterFollowsItsRule := by
  refine ⟨fun s t e q hq hstep => ?_,
    fun b q rs v => ⟨step_read .res b q rs, step_write (r := .res) (by decide) v b q rs⟩⟩
  obtain rfl := step_of_hostQueue hq hstep
  refine ⟨?_, ?_, ?_⟩
  · intro w hw
    rw [blockAfter_of_writes_cmd hw]
    exact ⟨fun h => by rw [specRunCommand_of_check_eq_zero h, complete_res],
      fun h => by rw [specRunCommand_of_check_ne_zero h]⟩
  · rintro rfl; rfl
  · exact fun hw he => blockAfter_keeps Block.res .cmd (fun h => absurd rfl h)
      (fun _ v b _ _ => writeReg_res v b) hw he s.block

/-- Settles O33, by the bits of the STATUS word. -/
theorem statusWordLayout : Obligations.StatusWordLayout := by
  refine ⟨fun b q rs => ⟨statusWord b, step_read .status b q rs, ?_⟩, fun b q rs v => ?_, statusWord_reset⟩
  · refine ⟨(getLsbD_statusWord b 0).trans (by simp), (getLsbD_statusWord b 1).trans (by simp),
      (getLsbD_statusWord b 2).trans (by simp), (getLsbD_statusWord b 3).trans (by simp),
      BitVec.eq_of_getLsbD_eq fun k hk => ?_, BitVec.eq_of_getLsbD_eq fun k hk => ?_⟩
    · rw [BitVec.getLsbD_extractLsb', getLsbD_statusWord_of_four_le b (by omega), Nat.add_sub_cancel_left]
      simp [hk]
    · rw [BitVec.getLsbD_extractLsb', getLsbD_statusWord_of_four_le b (by omega),
        BitVec.getLsbD_of_ge _ _ (by omega)]
      simp
  · rw [← writeStatus_eq]
    exact step_write (r := .status) (by decide) v b q rs

/-- Settles O34: a CMD write is the spec's RunCommand, and an event that is no command, no clear of STICKY and no
reset keeps STATUS. -/
theorem statusFieldsFollowTheirRules : Obligations.StatusFieldsFollowTheirRules := by
  intro s t e q hq hstep
  obtain rfl := step_of_hostQueue hq hstep
  refine ⟨?_, ?_, ?_, ?_, fun hcmd hclr he => blockAfter_keeps_status hcmd hclr he s.block⟩
  · intro w hw h
    rw [blockAfter_of_writes_cmd hw, specRunCommand_of_check_ne_zero h]
    exact ⟨rfl, rfl, rfl, rfl⟩
  · intro w hw h
    rw [blockAfter_of_writes_cmd hw, specRunCommand_of_check_eq_zero h]
    exact ⟨rfl, rfl, rfl, rfl⟩
  · rintro v rfl
    rw [blockAfter_write (by decide)]
    exact ⟨writeStatus_valid .., writeStatus_err .., writeStatus_ecode .., writeStatus_sticky ..⟩
  · rintro rfl
    exact ⟨rfl, rfl, rfl, rfl⟩

/-- Settles O43: a refusal raises STICKY with ERR, and only a clear lowers STICKY alone. -/
theorem stickyFollowsErrUntilCleared : Obligations.StickyFollowsErrUntilCleared := by
  intro s t hinv hstep hclr
  rcases step_cases hstep with ⟨-, rfl⟩ | ⟨e, q, hq, rfl⟩
  · exact hinv
  · exact stickyInv_blockAfter (hclr e (by rw [hq]; rfl)) hinv

/-- Settles O45: the block after an event and the answer to it are functions of the event and the block. -/
theorem nothingHiddenDecidesAStep : Obligations.NothingHiddenDecidesAStep := by
  intro s u s' u' e q p hs hu hb hs' hu'
  obtain rfl := step_of_hostQueue hs hs'
  obtain rfl := step_of_hostQueue hu hu'
  rw [hb]
  exact ⟨rfl, answerTo e u.block, rfl, rfl⟩

/-- Settles O27: a CMD write is RunCommand, which runs what its word decodes to. -/
theorem stepRunsTheDecodedCommand : Obligations.StepRunsTheDecodedCommand := by
  refine ⟨fun s q w i hq hd _ => ?_, fun s i => ?_⟩
  · rw [step_cmd_write hq, runCommand_of_ok hd]
  · rw [State.withFetchWord, tableWord_toNat, step_cmd_write rfl, runCommand_of_ok (decode_encode i)]

/-- Settles O35: both registers read constants of the configuration, and a write to either leaves the block. -/
theorem configurationRegistersAreConstant : Obligations.ConfigurationRegistersAreConstant := by
  intro b q rs v
  refine ⟨step_read .cfg0 b q rs, step_read .cfg1 b q rs, step_write (r := .cfg0) (by decide) v b q rs,
    step_write (r := .cfg1) (by decide) v b q rs, ?_⟩
  decide

/-- Settles O40: the step of a reset replaces the block by the reset values, on which STATUS reads zero. -/
theorem resetClearsEveryRegister : Obligations.ResetClearsEveryRegister :=
  ⟨fun b q rs => ⟨_, step_cons b .reset q rs, rfl, statusWord_reset, rfl, rfl⟩, rfl⟩

/-- Settles O42, by the two invariants at the reset block. -/
theorem resetMeetsStatusInv : Obligations.ResetMeetsStatusInv := ⟨statusInv_reset, stickyInv_reset⟩

end Sys2Proof.Machine

/-! # Proofs: the memory family (20_memory.md)

First which accesses are admitted, and one access at a time, admitted or not. Then what a repeated access changes, the
byte lanes and the window. Then the obligations. -/

namespace Sys2Proof.Machine

/-! ## The accesses that are not admitted (R50, R51) -/

/-- The mapped offsets are the multiples of 4 in the window (R52). -/
theorem regOffset_aligned_in_window (r : Reg) : regOffset r % 4 = 0 ∧ regOffset r < 0x20 := by
  cases r <;> decide

/-- Every offset in the window that is a multiple of 4 is mapped (R52). -/
theorem exists_regOffset_eq {off : Nat} (halign : off % 4 = 0) (hwin : off < 0x20) : ∃ r, off = regOffset r := by
  have hslot : ∀ k < 8, (regAt (4 * k)).isSome := by decide
  obtain ⟨r, hr⟩ := Option.isSome_iff_exists.mp (hslot (off / 4) (by omega))
  have hoff := regAt_eq_some.mp hr
  exact ⟨r, by omega⟩

/-- An access is not admitted when its size is not 4, its offset is no multiple of 4, or it lies outside the window. -/
theorem admittedReg_eq_none {off size : Nat} :
    admittedReg off size = none ↔ size ≠ 4 ∨ off % 4 ≠ 0 ∨ 0x20 ≤ off := by
  cases h : admittedReg off size with
  | some r =>
    obtain ⟨rfl, rfl⟩ := admittedReg_eq_some.mp h
    have := regOffset_aligned_in_window r
    simp; omega
  | none =>
    simp only [true_iff]
    by_contra hin
    obtain ⟨r, rfl⟩ := exists_regOffset_eq (off := off) (by omega) (by omega)
    obtain rfl : size = 4 := by omega
    simp at h

/-- The offsets of the registers, in the order of R52. -/
theorem regOffset_mem_offsets (r : Reg) :
    regOffset r ∈ [0x00, 0x04, 0x08, 0x0C, 0x10, 0x14, 0x18, 0x1C] := by cases r <;> decide

theorem admittedReg_eq_none_of_not_mem {off size : Nat}
    (h : ¬(size = 4 ∧ off ∈ [0x00, 0x04, 0x08, 0x0C, 0x10, 0x14, 0x18, 0x1C])) : admittedReg off size = none := by
  refine Option.eq_none_iff_forall_ne_some.mpr fun r hr => h ?_
  obtain ⟨rfl, rfl⟩ := admittedReg_eq_some.mp hr
  exact ⟨rfl, regOffset_mem_offsets r⟩

/-! ## One access, not admitted or a command (R54, R170) -/

section
variable {off size : Nat} (v : Word) (b : Block) (q : List HostEvent) (rs : List Response)

theorem step_read_of_not_admitted (h : admittedReg off size = none) :
    step ⟨b, .access (.read off size) :: q, rs⟩ = .next ⟨b, q, rs ++ [.busError]⟩ := by
  simp [step_cons, answerTo, h]

theorem step_write_of_not_admitted (h : admittedReg off size = none) :
    step ⟨b, .access (.write off size v) :: q, rs⟩ = .next ⟨b, q, rs ++ [.busError]⟩ := by
  simp [step_cons, blockAfter, answerTo, h]

/-- A write to CMD is the spec's RunCommand, answered with the normal response whether or not it is refused (R54). -/
theorem step_cmd_write_eq_next :
    step ⟨b, .access (.write (regOffset .cmd) 4 v) :: q, rs⟩ = .next ⟨specRunCommand v b, q, rs ++ [.done]⟩ := by
  rw [step_cons, blockAfter_of_writes_cmd rfl]
  rfl

end

/-! ## The same access twice (R59) -/

theorem writeReg_writeReg (r : Reg) (v : Word) (b : Block) : writeReg r v (writeReg r v b) = writeReg r v b := by
  cases r
  case status => simp [writeReg, writeStatus_eq]
  all_goals rfl

theorem finish_finish (c : Option CmdError) (x : Value) (b : Block) : finish c x (finish c x b) = finish c x b := by
  cases c <;> rfl

/-- A command leaves its operands, so running it again gives the same verdict and the same result. -/
theorem commandAfter_commandAfter (w : Word) (b : Block) :
    commandAfter w (commandAfter w b) = commandAfter w b := by
  obtain ⟨ha, hb, hn⟩ := commandAfter_operands w b
  cases hd : decode w with
  | error e => simp only [commandAfter_of_error hd]; rfl
  | ok i =>
    have hcmd (b : Block) : commandAfter w b = finish (operandCheck i b) (resultOf i b) b := by
      simp only [commandAfter, hd]
    rw [hcmd (commandAfter w b), operandCheck_congr i ha hb hn, resultOf_congr i ha hb hn, hcmd b, finish_finish]

theorem blockAfter_blockAfter (e : HostEvent) (b : Block) : blockAfter e (blockAfter e b) = blockAfter e b := by
  rcases blockAfter_cases e b with h | ⟨r, v, rfl, hr, -⟩ | ⟨w, rfl, -⟩ | ⟨rfl, -⟩
  · rw [h, h]
  · simp only [blockAfter_write hr, writeReg_writeReg]
  · simp only [blockAfter_command, commandAfter_commandAfter]
  · rfl

/-! ## Byte lanes and the window (R51, R55) -/

theorem getLsbD_byteLane (v : Word) (k : Nat) {j : Nat} (hj : j < 8) :
    (byteLane v k).getLsbD j = v.getLsbD (8 * k + j) := by
  simp [byteLane, hj]

/-- Lane `k` below the bits just above it is one longer slice of the word. -/
theorem append_byteLane (v : Word) (n k : Nat) :
    v.extractLsb' (8 * (k + 1)) n ++ byteLane v k = v.extractLsb' (8 * k) (n + 8) :=
  BitVec.extractLsb'_append_extractLsb'_eq_extractLsb' rfl

theorem ofLanes_byteLane (v : Word) :
    ofLanes (byteLane v 0) (byteLane v 1) (byteLane v 2) (byteLane v 3) = v := by
  have hlane3 : byteLane v 3 = v.extractLsb' (8 * (2 + 1)) 8 := rfl
  rw [ofLanes, hlane3, append_byteLane v 8 2, append_byteLane v 16 1, append_byteLane v 24 0]
  exact BitVec.extractLsb'_eq_self

/-- An address reaches the block at an offset exactly when it is BASE plus that offset, inside the window. -/
theorem windowOffset_eq_some {addr off : Nat} :
    windowOffset addr = some off ↔ addr = Config.base + off ∧ off < 0x20 := by
  unfold windowOffset
  split
  · rw [Option.some_inj]; omega
  · simp only [reduceCtorEq, false_iff]; omega

/-! ## The obligations -/

/-- Settles O37: a register write, RunCommand or a refused access, by the offset. -/
theorem writeMap : Obligations.WriteMap := by
  intro b q rs v
  refine ⟨?_, ?_, ?_, step_cmd_write_eq_next v b q rs, step_write (r := .res) (by decide) v b q rs,
    step_write (r := .status) (by decide) v b q rs, step_write (r := .cfg0) (by decide) v b q rs,
    step_write (r := .cfg1) (by decide) v b q rs,
    fun off size h => step_write_of_not_admitted v b q rs (admittedReg_eq_none_of_not_mem h)⟩
  · rw [← toValue_eq_extractLsb']; exact step_write (r := .opa) (by decide) v b q rs
  · rw [← toValue_eq_extractLsb']; exact step_write (r := .opb) (by decide) v b q rs
  · rw [← toLen_eq_extractLsb']; exact step_write (r := .opn) (by decide) v b q rs

/-- Settles O38: an access that is not admitted is answered with a bus error, and an admitted one reaches a register. -/
theorem busErrorsChangeNothing : Obligations.BusErrorsChangeNothing := by
  intro b q rs off size v
  constructor
  · intro hout
    have hnone := admittedReg_eq_none.mpr hout
    exact ⟨step_read_of_not_admitted b q rs hnone, step_write_of_not_admitted v b q rs hnone⟩
  · rintro ⟨rfl, halign, hwin⟩
    obtain ⟨r, rfl⟩ := exists_regOffset_eq halign hwin
    refine ⟨⟨_, step_read r b q rs⟩, ?_⟩
    by_cases hr : r = .cmd
    · subst hr; exact ⟨_, step_cmd_write_eq_next v b q rs⟩
    · exact ⟨_, step_write hr v b q rs⟩

/-- Settles O39: an event's effect on the block is idempotent, and RES, CFG0 and CFG1 ignore writes. -/
theorem repeatedAccessChangesNothingMore : Obligations.RepeatedAccessChangesNothingMore := by
  constructor
  · intro b a q rs t u ht hu
    obtain rfl := step_of_hostQueue rfl ht
    obtain rfl := step_of_hostQueue rfl hu
    exact blockAfter_blockAfter (.access a) b
  · rintro b off size v q rs t (h | h | h | h) <;> obtain rfl := step_of_hostQueue rfl h
    · rfl
    · exact blockAfter_write (r := .res) (by decide) v b
    · exact blockAfter_write (r := .cfg0) (by decide) v b
    · exact blockAfter_write (r := .cfg1) (by decide) v b

/-- Settles O36: a read answers the register at its offset, or a bus error where none is admitted. -/
theorem readMap : Obligations.ReadMap := fun b q rs =>
  ⟨step_read .opa b q rs, step_read .opb b q rs, step_read .opn b q rs, step_read .cmd b q rs, step_read .res b q rs,
    step_read .status b q rs, step_read .cfg0 b q rs, step_read .cfg1 b q rs,
    fun _ _ h => step_read_of_not_admitted b q rs (admittedReg_eq_none_of_not_mem h)⟩

/-- Settles O49, by the bits of a lane and by joining the four lanes. -/
theorem byteLanesAreLittleEndian : Obligations.ByteLanesAreLittleEndian := fun v =>
  ⟨fun k _ _ hj => getLsbD_byteLane v k hj, ofLanes_byteLane v⟩

/-- Settles O50: BASE is 32 times its slot, whatever the slot. -/
theorem windowIsThirtyTwoBytesAtBase : Obligations.WindowIsThirtyTwoBytesAtBase :=
  ⟨Dvd.intro Config.baseSlot rfl, fun _ _ => windowOffset_eq_some⟩

end Sys2Proof.Machine

/-! # Proofs: the encoding family (30_encoding.md)

First what each word decodes to and the step of a refused word. Then the runs of host programs. Then the obligations. -/

namespace Sys2Proof.Machine

/-! ## What each of the 2^32 words decodes to (R74 to R77) -/

theorem encode_injective : Function.Injective encode := fun i j h =>
  Except.ok.inj (by rw [← decode_encode i, h, decode_encode j])

/-- A command's word is its opcode, 1 to 5 (R73). -/
theorem toNat_encode_bounds (i : Instr) : 1 ≤ (encode i).toNat ∧ (encode i).toNat ≤ 5 := by
  cases i <;> decide

/-- A word decodes to a command exactly when it is that command's word: any other is RSVD or ILLOP. -/
theorem decode_eq_ok_iff {w : Word} {i : Instr} : decode w = .ok i ↔ w = encode i := by
  constructor
  · intro h
    rcases decode_cases w with ⟨-, hd⟩ | ⟨-, -, hd⟩ | ⟨j, rfl⟩
    · exact nomatch hd.symm.trans h
    · exact nomatch hd.symm.trans h
    · rw [Except.ok.inj ((decode_encode j).symm.trans h)]
  · rintro rfl
    exact decode_encode i

theorem ushiftRight_four_eq_zero_iff (w : Word) : w >>> 4 = 0 ↔ w.toNat < 16 := by
  rw [← BitVec.toNat_inj]
  simp [Nat.shiftRight_eq_div_pow]

/-- The rows of the opcode map as ranges of the word's value, each with what it decodes to (R73). -/
theorem decode_cases_toNat (w : Word) :
    (16 ≤ w.toNat ∧ decode w = .error .rsvd) ∨
    ((w.toNat = 0 ∨ 6 ≤ w.toNat ∧ w.toNat < 16) ∧ decode w = .error .illop) ∨
    ((1 ≤ w.toNat ∧ w.toNat ≤ 5) ∧ ∃ i, decode w = .ok i) := by
  rcases decode_cases w with ⟨hr, hd⟩ | ⟨hr, hop, hd⟩ | ⟨i, rfl⟩
  · rw [ne_eq, ushiftRight_four_eq_zero_iff] at hr
    exact .inl ⟨by omega, hd⟩
  · have hlt := (ushiftRight_four_eq_zero_iff w).mp hr
    have hlow : (w &&& 0xF).toNat = w.toNat := by
      rw [BitVec.toNat_and]
      exact (Nat.and_two_pow_sub_one_eq_mod w.toNat 4).trans (Nat.mod_eq_of_lt hlt)
    rw [← BitVec.toNat_inj, hlow, show (0 : Word).toNat = 0 from rfl] at hop
    exact .inr (.inl ⟨by omega, hd⟩)
  · exact .inr (.inr ⟨toNat_encode_bounds i, i, decode_encode i⟩)

theorem decode_eq_rsvd_iff (w : Word) : decode w = .error .rsvd ↔ 16 ≤ w.toNat := by
  rcases decode_cases_toNat w with ⟨h, hd⟩ | ⟨h, hd⟩ | ⟨h, i, hd⟩ <;> simp [hd] <;> omega

theorem decode_eq_illop_iff (w : Word) :
    decode w = .error .illop ↔ w.toNat = 0 ∨ (6 ≤ w.toNat ∧ w.toNat < 16) := by
  rcases decode_cases_toNat w with ⟨h, hd⟩ | ⟨h, hd⟩ | ⟨h, i, hd⟩ <;> simp [hd] <;> omega

/-- A word with a command's value decodes to that command. -/
theorem decode_of_toNat_eq {w : Word} (i : Instr) (h : w.toNat = (encode i).toNat) : decode w = .ok i :=
  decode_eq_ok_iff.mpr (BitVec.eq_of_toNat_eq h)

/-- A CMD write of a word that is no command is refused with its error, and runs nothing (R75, R76). -/
theorem step_cmd_write_of_error {w : Word} {e : CmdError} (h : decode w = .error e) (b : Block)
    (q : List HostEvent) (rs : List Response) :
    step ⟨b, .access (.write (regOffset .cmd) 4 w) :: q, rs⟩ = .next ⟨refuse e b, q, rs ++ [.done]⟩ := by
  rw [step_cmd_write_eq_next, ← commandAfter_eq_specRunCommand, commandAfter_of_error h]

/-! ## Runs of host programs (R79, R80) -/

section
variable (v : Word) (b : Block) (q : List HostEvent) (rs : List Response)

/-- A host program that writes registers other than CMD and then runs a command reaches, in one step per access, what
RunCommand gives from the block with those writes made. -/
theorem core_run_writes_cmd (i : Instr) (ws : List (Reg × Word)) (hws : ∀ p ∈ ws, p.1 ≠ .cmd) :
    ∃ t, Host.Core.run Sys2Proof.core (ws.length + 1)
        (⟨b, ws.map (fun p => sw p.1 p.2) ++ cmd i :: q, rs⟩ : State) = .next t ∧
      t.hostQueue = q ∧ t.block = specRunCommand (encode i) (ws.foldl (fun c p => writeReg p.1 p.2 c) b) := by
  induction ws generalizing b rs with
  | nil => exact ⟨_, core_run_succ (step_cmd_write_eq_next (encode i) b q rs), rfl, rfl⟩
  | cons p ws ih =>
    obtain ⟨hp, hws⟩ := List.forall_mem_cons.mp hws
    obtain ⟨t, hrun, hend⟩ := ih (writeReg p.1 p.2 b) (rs ++ [.done]) hws
    exact ⟨t, (core_run_succ (step_write hp p.2 b _ rs)).trans hrun, hend⟩

/-- An operand write that leaves the block may be left out (R80). -/
theorem step_sw_of_writeReg_eq_self {r : Reg} (hr : r ≠ .cmd) (h : writeReg r v b = b) :
    ∃ t, step ⟨b, sw r v :: q, rs⟩ = .next t ∧ t.block = b :=
  ⟨_, step_write hr v b q rs, h⟩

end

/-! ## The obligations -/

/-- Settles O25: a word decodes to a command exactly when it is the command's word, and no two commands share one. -/
theorem decodeInvertsEncode : Obligations.DecodeInvertsEncode := by
  have hmask (w : Word) : w &&& 0xFFFFFFFF = w := BitVec.and_allOnes
  refine ⟨fun i w _ => ?_, fun i _ => decode_encode i, fun i j w hi hj => encode_injective (hi.symm.trans hj),
    rfl, rfl, rfl, rfl, rfl⟩
  rw [hmask]
  exact decode_eq_ok_iff

/-- Settles O26, by the ranges of the word's value. -/
theorem otherWordsAreRefusedByName : Obligations.OtherWordsAreRefusedByName := fun w =>
  ⟨decode_eq_rsvd_iff w, decode_eq_illop_iff w, decode_of_toNat_eq .mask, decode_of_toNat_eq .mod,
    decode_of_toNat_eq .enc, decode_of_toNat_eq .syn, decode_of_toNat_eq .hdist, fun b q rs =>
      ⟨fun h => step_cmd_write_of_error ((decode_eq_rsvd_iff w).mpr h) b q rs,
        fun h => step_cmd_write_of_error ((decode_eq_illop_iff w).mpr h) b q rs⟩⟩

/-- Settles O28: the machine's RunCommand is the spec's for every word, and a CMD write is one step of it. -/
theorem cmdWriteIsRunCommand : Obligations.CmdWriteIsRunCommand := by
  rintro ⟨b, _, rs⟩ q w rfl
  exact step_cmd_write_eq_next w b q rs

/-- Settles O48: one step for each operand write, then one for the command. -/
theorem pseudoInstructionsRun : Obligations.PseudoInstructionsRun := by
  intro b q rs x y n
  simp only [← toValue_eq_extractLsb', ← toLen_eq_extractLsb']
  refine ⟨?mask, ?mod, ?enc, ?syn, ?hdist, ?clrSticky, fun h => ?opa, fun h => ?opb, fun h => ?opn⟩
  case mask => exact core_run_writes_cmd b q rs .mask [(.opn, n)] (by simp)
  case mod => exact core_run_writes_cmd b q rs .mod [(.opa, x), (.opb, y), (.opn, n)] (by simp)
  case enc => exact core_run_writes_cmd b q rs .enc [(.opa, x)] (by simp)
  case syn => exact core_run_writes_cmd b q rs .syn [(.opa, x)] (by simp)
  case hdist => exact core_run_writes_cmd b q rs .hdist [(.opa, x), (.opb, y)] (by simp)
  case clrSticky => exact ⟨_, core_run_succ (step_write (by decide) 4 b q rs), rfl, rfl⟩
  case opa => exact step_sw_of_writeReg_eq_self x b q rs (by decide) (by rw [writeReg, ← h])
  case opb => exact step_sw_of_writeReg_eq_self x b q rs (by decide) (by rw [writeReg, ← h])
  case opn => exact step_sw_of_writeReg_eq_self x b q rs (by decide) (by rw [writeReg, ← h])

/-- Settles O24, by the rows of the opcode map. -/
theorem opcodeMapWords : Obligations.OpcodeMapWords := by
  refine ⟨rfl, decode_encode .mask, decode_encode .mod, decode_encode .enc, decode_encode .syn, decode_encode .hdist,
    fun op h6 hF => (decode_eq_illop_iff _).mpr ?_, fun w hw => (decode_eq_rsvd_iff w).mpr ?_,
    step_cmd_write_of_error (w := 0) (e := .illop) rfl, rfl, rfl, rfl⟩
  · rw [BitVec.toNat_ofNat]
    omega
  · rw [ne_eq, ushiftRight_four_eq_zero_iff] at hw
    omega

end Sys2Proof.Machine


/-! # Proofs: the remainder family (40_remainder.md)

First the bounds of a value in terms of its bits, and the divisor check. Then the scan: what it leaves, what it clears,
that it is linear and divides polynomials. Then MASK and MOD as commands, and the obligations. -/

namespace Sys2Proof.Machine

/-! ## Values below a power of two, and the divisor check (R100, R105) -/

/-- A value is below 2^m exactly when no bit at or above position `m` is set. -/
theorem toNat_lt_two_pow_iff {v : Value} {m : Nat} : v.toNat < 2 ^ m ↔ ∀ k, m ≤ k → v.getLsbD k = false := by
  constructor
  · exact fun h k hk => Nat.testBit_lt_two_pow (h.trans_le (Nat.pow_le_pow_right (by decide) hk))
  · exact fun h => Nat.lt_pow_two_of_testBit _ h

theorem toNat_mask {len : Nat} (h : len ≤ 16) : (mask len).toNat = 2 ^ len - 1 := by
  have hpow : 2 ^ len ≤ 2 ^ 16 := Nat.pow_le_pow_right (by decide) h
  rw [mask, BitVec.toNat_ofNat]
  omega

theorem and_mask_of_lt {v : Value} {n : Nat} (h : v.toNat < 2 ^ n) : v &&& mask n = v := by
  refine BitVec.eq_of_getLsbD_eq fun k hk => ?_
  rw [BitVec.getLsbD_and, getLsbD_mask]
  by_cases hkn : k < n
  · simp [hk, hkn]
  · simp [toNat_lt_two_pow_iff.mp h k (by omega)]

/-- The XOR of a masked value with a divisor that passes its check stays inside the mask (R104). -/
theorem and_mask_xor_lt {d : Value} {n : Nat} (h : divisorOk d n = true) (v : Value) :
    ((v &&& mask n) ^^^ d).toNat < 2 ^ n := by
  obtain ⟨-, h16, -, hhigh⟩ := divisorOk_bits h
  have hmask : (mask n).toNat < 2 ^ n := by
    rw [toNat_mask h16]
    exact Nat.sub_one_lt (Nat.two_pow_pos n).ne'
  rw [BitVec.toNat_xor, BitVec.toNat_and]
  exact Nat.xor_lt_two_pow (Nat.and_lt_two_pow _ hmask) (toNat_lt_two_pow_iff.mpr hhigh)

/-- The divisor check as bits: position `digits - 1` is the leading 1 (R105). -/
theorem divisorOk_iff_bits {d : Value} {n : Nat} :
    divisorOk d n = true ↔ 1 ≤ n ∧ n ≤ 16 ∧ d.getLsbD (n - 1) = true ∧ ∀ k, n ≤ k → d.getLsbD k = false := by
  refine ⟨divisorOk_bits, fun ⟨h1, h16, hlead, hhigh⟩ => ?_⟩
  rw [divisorOk_eq_true_iff (by omega) h16]
  refine BitVec.eq_of_getLsbD_eq fun k _ => ?_
  rw [BitVec.getLsbD_ushiftRight]
  cases k with
  | zero => exact hlead
  | succ k => rw [hhigh _ (by omega)]; simp [BitVec.getLsbD_one]

theorem ne_zero_of_divisorOk {d : Value} {n : Nat} (h : divisorOk d n = true) : d ≠ 0 := by
  obtain ⟨-, -, hlead, -⟩ := divisorOk_bits h
  rintro rfl
  simp at hlead

/-! ## The scan, for every divisor (R104, R108) -/

/-- The scan is the fold of one position over `digits - 1 + (k - 1)` down to `digits - 1`. -/
theorem gf2Scan_eq_foldl (d : Value) (n k : Nat) (v : Value) :
    gf2Scan d n k v = (((List.range k).map (fun j => n - 1 + j)).reverse).foldl (fun v i => gf2Step d n i v) v := by
  induction k generalizing v with
  | zero => rfl
  | succ k ih => simp [gf2Scan_succ, ih, List.range_succ]

theorem gf2Step_of_bit_clear {d v : Value} {n i : Nat} (h : v.getLsbD i = false) : gf2Step d n i v = v :=
  if_neg (Bool.eq_false_iff.mp h)

/-- On a value of at most `digits` bits only the last position, `digits - 1`, can act. -/
theorem gf2Scan_of_lt {d v : Value} {n : Nat} (h1 : 1 ≤ n) (h : v.toNat < 2 ^ n) (k : Nat) :
    gf2Scan d n (k + 1) v = gf2Step d n (n - 1) v := by
  induction k with
  | zero => rfl
  | succ k ih =>
    rw [gf2Scan_succ, gf2Step_of_bit_clear (toNat_lt_two_pow_iff.mp h _ (by omega)), ih]

theorem gf2Mod_of_lt {d v : Value} {n : Nat} (h1 : 1 ≤ n) (h16 : n ≤ 16) (h : v.toNat < 2 ^ n) :
    gf2Mod v d n = gf2Step d n (n - 1) v := by
  rw [gf2Mod, show 17 - n = 16 - n + 1 by omega, gf2Scan_of_lt h1 h]

/-- A dividend below 2^(digits-1) is its own remainder, whatever the divisor (R108). -/
theorem gf2Mod_eq_self {d v : Value} {n : Nat} (h1 : 1 ≤ n) (h16 : n ≤ 16) (h : v.toNat < 2 ^ (n - 1)) :
    gf2Mod v d n = v := by
  rw [gf2Mod_of_lt h1 h16 (h.trans_le (Nat.pow_le_pow_right (by decide) (by omega))),
    gf2Step_of_bit_clear (toNat_lt_two_pow_iff.mp h _ le_rfl)]

theorem gf2Mod_zero (d : Value) {n : Nat} (h1 : 1 ≤ n) (h16 : n ≤ 16) : gf2Mod 0 d n = 0 :=
  gf2Mod_eq_self h1 h16 (Nat.two_pow_pos _)

/-! ## The scan, for a divisor that passes its check (R107, R109, R110) -/

section
variable {d : Value} {n : Nat}

/-- The divisor, shifted so that its leading 1 stands at position `i`, has no bit above it. -/
theorem getLsbD_shifted_divisor (h : divisorOk d n = true) {i k : Nat} (hi : n - 1 ≤ i) (hk : i < k) :
    (d <<< (i - (n - 1))).getLsbD k = false := by
  obtain ⟨-, -, -, hhigh⟩ := divisorOk_bits h
  simp [hhigh (k - (i - (n - 1))) (by omega)]

theorem getLsbD_shifted_divisor_lead (h : divisorOk d n = true) {i : Nat} (hi : n - 1 ≤ i) (hi16 : i < 16) :
    (d <<< (i - (n - 1))).getLsbD i = true := by
  obtain ⟨-, -, hlead, -⟩ := divisorOk_bits h
  simp [hi16, show i - (i - (n - 1)) = n - 1 by omega, hlead]

/-- One position clears its bit and sets none above it. -/
theorem gf2Step_lt (h : divisorOk d n = true) {i : Nat} (hi : n - 1 ≤ i) {v : Value} (hv : v.toNat < 2 ^ (i + 1)) :
    (gf2Step d n i v).toNat < 2 ^ i := by
  rw [toNat_lt_two_pow_iff] at hv ⊢
  intro k hk
  rw [gf2Step_eq h]
  rcases hk.eq_or_lt with rfl | hlt
  · split
    case isTrue hbit =>
      rw [BitVec.getLsbD_xor, hbit, getLsbD_shifted_divisor_lead h hi (BitVec.lt_of_getLsbD hbit)]
      rfl
    case isFalse hbit => exact Bool.eq_false_iff.mpr hbit
  · split
    · rw [BitVec.getLsbD_xor, hv k hlt, getLsbD_shifted_divisor h hi hlt]
      rfl
    · exact hv k hlt

theorem gf2Scan_lt (h : divisorOk d n = true) {k : Nat} {v : Value} (hv : v.toNat < 2 ^ (n - 1 + k)) :
    (gf2Scan d n k v).toNat < 2 ^ (n - 1) := by
  induction k generalizing v with
  | zero => exact hv
  | succ k ih => exact ih (gf2Step_lt h (by omega) hv)

/-- The width bound of the remainder (R107). -/
theorem gf2Mod_lt (h : divisorOk d n = true) (v : Value) : (gf2Mod v d n).toNat < 2 ^ (n - 1) := by
  obtain ⟨h1, h16, -, -⟩ := divisorOk_bits h
  refine gf2Scan_lt h ?_
  rw [show n - 1 + (17 - n) = 16 by omega]
  exact v.isLt

theorem gf2Mod_self (h : divisorOk d n = true) : gf2Mod d d n = 0 := by
  obtain ⟨h1, h16, hlead, hhigh⟩ := divisorOk_bits h
  rw [gf2Mod_of_lt h1 h16 (toNat_lt_two_pow_iff.mpr hhigh), gf2Step_eq h, if_pos hlead]
  simp

/-- One position is linear: where both values have the bit, the divisor is XORed in twice and cancels. -/
theorem gf2Step_xor (h : divisorOk d n = true) (i : Nat) (v w : Value) :
    gf2Step d n i (v ^^^ w) = gf2Step d n i v ^^^ gf2Step d n i w := by
  simp only [gf2Step_eq h, BitVec.getLsbD_xor]
  generalize d <<< (i - (n - 1)) = x
  cases v.getLsbD i <;> cases w.getLsbD i
  case false.false => rfl
  case false.true => exact BitVec.xor_assoc v w x
  case true.false =>
    have hcomm : v ^^^ w ^^^ x = v ^^^ x ^^^ w := by ac_rfl
    exact hcomm
  case true.true =>
    calc v ^^^ w = v ^^^ w ^^^ (x ^^^ x) := by simp
      _ = (v ^^^ x) ^^^ (w ^^^ x) := by ac_rfl

theorem gf2Scan_xor (h : divisorOk d n = true) (k : Nat) (v w : Value) :
    gf2Scan d n k (v ^^^ w) = gf2Scan d n k v ^^^ gf2Scan d n k w := by
  induction k generalizing v w with
  | zero => rfl
  | succ k ih => rw [gf2Scan_succ, gf2Step_xor h, ih]; rfl

/-- The remainder is linear in the dividend (R110). -/
theorem gf2Mod_xor (h : divisorOk d n = true) (v w : Value) :
    gf2Mod (v ^^^ w) d n = gf2Mod v d n ^^^ gf2Mod w d n := gf2Scan_xor h _ v w

end

/-! ## Values as polynomials over GF(2) (R13) -/

section
open Polynomial

theorem isPoly_xor {v w : Value} {p q : (ZMod 2)[X]} (hv : IsPoly v p) (hw : IsPoly w q) :
    IsPoly (v ^^^ w) (p + q) := by
  intro k
  rw [coeff_add, hv k, hw k, BitVec.getLsbD_xor]
  cases v.getLsbD k <;> cases w.getLsbD k <;> decide

/-- A left shift that drops no bit is the product with a power of `X`. -/
theorem isPoly_shiftLeft {v : Value} {p : (ZMod 2)[X]} (hv : IsPoly v p) {s : Nat}
    (hdrop : ∀ k, 16 ≤ k + s → v.getLsbD k = false) : IsPoly (v <<< s) (p * X ^ s) := by
  intro k
  rw [coeff_mul_X_pow', hv, BitVec.getLsbD_shiftLeft]
  by_cases hs : s ≤ k
  · by_cases hk : k < 16
    · simp [hs, hk]
    · simp [hs, hdrop (k - s) (by omega)]
  · simp [hs, show k < s by omega]

theorem degree_lt_of_isPoly {v : Value} {p : (ZMod 2)[X]} (hp : IsPoly v p) {m : Nat} (h : v.toNat < 2 ^ m) :
    p.degree < (m : WithBot ℕ) := by
  rw [degree_lt_iff_coeff_zero]
  intro k hk
  rw [hp, toNat_lt_two_pow_iff.mp h k hk]
  rfl

variable {d : Value} {n : Nat} {pd : (ZMod 2)[X]}

/-- The polynomial of a divisor that passes its check is monic of degree `digits - 1` (R105). -/
theorem monic_of_divisorOk (h : divisorOk d n = true) (hpd : IsPoly d pd) :
    pd.Monic ∧ pd.degree = ((n - 1 : Nat) : WithBot ℕ) := by
  obtain ⟨h1, -, hlead, hhigh⟩ := divisorOk_bits h
  have hcoeff : pd.coeff (n - 1) = 1 := by rw [hpd, hlead]; rfl
  have hdegree : pd.degree ≤ ((n - 1 : Nat) : WithBot ℕ) := by
    rw [degree_le_iff_coeff_zero]
    intro k hk
    have hk : n - 1 < k := WithBot.coe_lt_coe.mp hk
    rw [hpd, hhigh k (by omega)]
    rfl
  exact ⟨monic_of_degree_le _ hdegree hcoeff,
    degree_eq_of_le_of_coeff_ne_zero hdegree (hcoeff ▸ one_ne_zero)⟩

/-- One position subtracts a multiple of the divisor, which over GF(2) is adding it. -/
theorem isPoly_gf2Step (h : divisorOk d n = true) (hpd : IsPoly d pd) {i : Nat} (hi : n - 1 ≤ i) {v : Value}
    {p : (ZMod 2)[X]} (hp : IsPoly v p) : ∃ q, IsPoly (gf2Step d n i v) (p + q * pd) := by
  obtain ⟨-, -, -, hhigh⟩ := divisorOk_bits h
  rw [gf2Step_eq h]
  split
  case isTrue hbit =>
    have hi16 : i < 16 := BitVec.lt_of_getLsbD hbit
    refine ⟨X ^ (i - (n - 1)), isPoly_xor hp ?_⟩
    rw [mul_comm]
    exact isPoly_shiftLeft hpd fun k hk => hhigh k (by omega)
  case isFalse => exact ⟨0, by rwa [zero_mul, add_zero]⟩

theorem isPoly_gf2Scan (h : divisorOk d n = true) (hpd : IsPoly d pd) (k : Nat) {v : Value} {p : (ZMod 2)[X]}
    (hp : IsPoly v p) : ∃ q, IsPoly (gf2Scan d n k v) (p + q * pd) := by
  induction k generalizing v p with
  | zero => exact ⟨0, by rwa [zero_mul, add_zero]⟩
  | succ k ih =>
    obtain ⟨q, hstep⟩ := isPoly_gf2Step h hpd (Nat.le_add_right _ k) hp
    obtain ⟨q', hscan⟩ := ih hstep
    exact ⟨q + q', by rw [add_mul, ← add_assoc]; exact hscan⟩

/-- The engine divides: the remainder's polynomial is that of Mathlib's division by the divisor (R109). -/
theorem isPoly_gf2Mod (h : divisorOk d n = true) (hpd : IsPoly d pd) {a : Value} {pa : (ZMod 2)[X]}
    (hpa : IsPoly a pa) : IsPoly (gf2Mod a d n) (pa %ₘ pd) := by
  obtain ⟨hmonic, hdegree⟩ := monic_of_divisorOk h hpd
  obtain ⟨q, hq⟩ := isPoly_gf2Scan h hpd (17 - n) hpa
  have hlt : (pa + q * pd).degree < pd.degree := hdegree ▸ degree_lt_of_isPoly hq (gf2Mod_lt h a)
  have heq : pa + q * pd + pd * q = pa := by
    rw [mul_comm pd q, add_assoc, CharTwo.add_self_eq_zero, add_zero]
  rw [(div_modByMonic_unique q _ hmonic ⟨heq, hlt⟩).2]
  exact hq

end

/-! ## MASK and MOD as commands (R101, R106) -/

theorem modCheck_eq_len {d : Value} {n : Len} (h : n.toNat = 0 ∨ 16 < n.toNat) : modCheck d n = some .len :=
  if_pos h

theorem modCheck_eq_divisor {d : Value} {n : Len} (h1 : 1 ≤ n.toNat) (h16 : n.toNat ≤ 16)
    (hd : d >>> (n.toNat - 1) ≠ 1) : modCheck d n = some .divisor := by
  have hok : ¬ divisorOk d n.toNat = true := mt (divisorOk_eq_true_iff (by omega) h16).mp hd
  rw [modCheck, if_neg (by omega), if_neg hok]

/-- A command whose operand check passes completes with its result. -/
theorem exec_of_check_eq_none {i : Instr} {s : State} (h : operandCheck i s.block = none) :
    exec i s = .next { s with block := complete (resultOf i s.block) s.block } := by
  rw [exec_eq, State.withBlock, h, finish_none]

/-- A command whose operand check fails is refused with that check's error. -/
theorem exec_of_check_eq_some {i : Instr} {s : State} {e : CmdError} (h : operandCheck i s.block = some e) :
    exec i s = .next { s with block := refuse e s.block } := by
  rw [exec_eq, State.withBlock, h, finish_some]

/-! ## The obligations -/

/-- Settles O1: the LEN check decides, and up to 16 the mask is 2^OPN - 1. -/
theorem maskFollowsItsRule : Obligations.MaskFollowsItsRule :=
  ⟨rfl, decode_encode .mask, fun _ =>
    ⟨fun h => ⟨_, toNat_mask h, exec_of_check_eq_none (i := .mask) (maskCheck_eq_none.mpr h)⟩,
      fun h => exec_of_check_eq_some (i := .mask) (maskCheck_eq_some.mpr ⟨h, rfl⟩)⟩⟩

/-- Settles O2: the two checks decide how MOD ends, and the corner cases are laws of the scan. -/
theorem modFollowsItsRule : Obligations.ModFollowsItsRule := by
  refine ⟨rfl, decode_encode .mod, fun s => ⟨fun h1 h16 hd => ?_, fun h => ?_, fun h1 h16 hd => ?_⟩,
    fun a d n h1 h16 hd => ?_, fun a => ?_, fun a d hd => ?_, by decide⟩
  · have hok := (divisorOk_eq_true_iff (by omega) h16).mpr hd
    exact exec_of_check_eq_none (i := .mod) (modCheck_eq_none.mpr hok)
  · exact exec_of_check_eq_some (i := .mod) (modCheck_eq_len h)
  · exact exec_of_check_eq_some (i := .mod) (modCheck_eq_divisor h1 h16 hd)
  · have hok := (divisorOk_eq_true_iff (by omega) h16).mpr hd
    exact ⟨gf2Mod_zero d h1 h16, gf2Mod_self hok, gf2Mod_eq_self h1 h16, ne_zero_of_divisorOk hok⟩
  · have hlt := gf2Mod_lt (d := 1) (n := 1) (by decide) a
    exact BitVec.eq_of_toNat_eq (Nat.lt_one_iff.mp hlt)
  · have hok : divisorOk d 16 = true := (divisorOk_eq_true_iff (by decide) (by decide)).mpr hd
    rw [gf2Mod_of_lt (by decide) (by decide) a.isLt, gf2Step_eq hok]
    simp

/-- Settles O9: the model's scan is the fold, and the XOR of the window with the divisor needs no mask. -/
theorem remainderIsTheScan : Obligations.RemainderIsTheScan := fun a d n _ _ =>
  ⟨fun hok v => and_mask_of_lt (and_mask_xor_lt hok v), gf2Scan_eq_foldl d n (17 - n) a⟩

/-- Settles O10, by the bits of the shifted divisor. -/
theorem divisorCheckIsBitLength : Obligations.DivisorCheckIsBitLength :=
  ⟨fun _ _ => divisorOk_iff_bits, by decide⟩

/-- Settles O11: the check that accepts MOD is the one the width bound asks for. -/
theorem modResultIsBelowDivisorDegree : Obligations.ModResultIsBelowDivisorDegree := fun s hok =>
  ⟨_, exec_of_check_eq_none (i := .mod) (modCheck_eq_none.mpr hok), rfl, gf2Mod_lt hok s.block.opa⟩

/-- Settles O12: no position of the scan finds its bit set. -/
theorem remainderFixesSmallDividends : Obligations.RemainderFixesSmallDividends := fun _ _ _ => gf2Mod_eq_self

/-- Settles O13: the remainder stands for `pa %ₘ pd`, and division by a monic polynomial has one remainder. -/
theorem remainderIsPolynomialRemainder : Obligations.RemainderIsPolynomialRemainder := by
  intro a d n pa pd hok hpa hpd
  obtain ⟨hmonic, hdegree⟩ := monic_of_divisorOk hok hpd
  rw [← hdegree]
  refine ⟨pa.modByMonic pd, isPoly_gf2Mod hok hpd hpa, ⟨Polynomial.degree_modByMonic_lt pa hmonic, ?_⟩, ?_⟩
  · exact ⟨pa.divByMonic pd, by rw [mul_comm, add_comm, Polynomial.modByMonic_add_div]⟩
  · rintro r hr ⟨q, hq⟩
    have hsum : r + pd * q = pa := by rw [hq, mul_comm, add_comm]
    exact (Polynomial.div_modByMonic_unique q r hmonic ⟨hsum, hr⟩).2.symm

/-- Settles O14: every position of the scan is linear. -/
theorem remainderIsLinear : Obligations.RemainderIsLinear := by
  intro d n hok
  obtain ⟨h1, h16, -, -⟩ := divisorOk_bits hok
  exact ⟨gf2Mod_zero d h1 h16, gf2Mod_xor hok⟩

/-- Settles O8, by the value and the bits of the mask. -/
theorem maskHasItsLowBits : Obligations.MaskHasItsLowBits := fun len hlen =>
  ⟨toNat_mask hlen, fun k hk => by rw [getLsbD_mask, decide_eq_true hk, Bool.true_and]⟩

end Sys2Proof.Machine


/-! # Proofs: the codec family (41_codec.md)

First the laws of the code for every configuration a model may take: a codeword's width, its high and low bits, and what
the syndrome sees of it. Then the positions at which two values differ, and this block's single-bit syndromes, which give
the minimum distance. Then ENC and SYN as commands, and the obligations. -/

namespace Sys2Proof.Machine

/-! ## The code of any configuration (R121, R123, R124, R126, R128) -/

section
variable {c : Cfg} {w : Value}

/-- An information word and the check bits fill the codeword, which fits the datapath (R9, R10). -/
theorem lengths_of_wellFormed (hc : c.wellFormed = true) :
    1 ≤ c.genLen ∧ c.genLen ≤ 16 ∧ c.dataLen + (c.genLen - 1) = c.codeLen ∧ c.codeLen ≤ 16 := by
  simp only [Cfg.wellFormed, Bool.and_eq_true, decide_eq_true_eq] at hc
  obtain ⟨⟨⟨⟨⟨h1, h16⟩, hle⟩, hcode⟩, -⟩, -⟩ := hc
  rw [Cfg.dataLen]
  omega

/-- The encoder's shift moves an information word into the codeword's high bits and drops none of it. -/
theorem getLsbD_shifted_word (hc : c.wellFormed = true) (hw : w.toNat < 2 ^ c.dataLen) (k : Nat) :
    (w <<< (c.genLen - 1)).getLsbD k = (!decide (k < c.genLen - 1) && w.getLsbD (k - (c.genLen - 1))) := by
  obtain ⟨-, -, hlen, hcode⟩ := lengths_of_wellFormed hc
  rw [BitVec.getLsbD_shiftLeft]
  by_cases hk : k < 16
  · simp [hk]
  · simp [toNat_lt_two_pow_iff.mp hw (k - (c.genLen - 1)) (by omega)]

/-- The codeword bit by bit: the remainder below position GEN_LEN - 1, the information word from there up. -/
theorem getLsbD_bchEncode (hc : c.wellFormed = true) (hw : w.toNat < 2 ^ c.dataLen) (k : Nat) :
    (bchEncode c w).getLsbD k = if k < c.genLen - 1 then (gf2Mod (w <<< (c.genLen - 1)) c.gen c.genLen).getLsbD k
      else w.getLsbD (k - (c.genLen - 1)) := by
  have hrem := toNat_lt_two_pow_iff.mp (gf2Mod_lt (divisorOk_of_wellFormed hc) (w <<< (c.genLen - 1)))
  rw [bchEncode, BitVec.getLsbD_xor, getLsbD_shifted_word hc hw]
  by_cases hk : k < c.genLen - 1
  · simp [hk]
  · simp [hk, hrem k (by omega)]

theorem bchEncode_lt (hc : c.wellFormed = true) (hw : w.toNat < 2 ^ c.dataLen) :
    (bchEncode c w).toNat < 2 ^ c.codeLen := by
  obtain ⟨h1, -, hlen, -⟩ := lengths_of_wellFormed hc
  refine toNat_lt_two_pow_iff.mpr fun k hk => ?_
  rw [getLsbD_bchEncode hc hw, if_neg (by omega), toNat_lt_two_pow_iff.mp hw _ (by omega)]

theorem bchEncode_ushiftRight (hc : c.wellFormed = true) (hw : w.toNat < 2 ^ c.dataLen) :
    bchEncode c w >>> (c.genLen - 1) = w := by
  refine BitVec.eq_of_getLsbD_eq fun k _ => ?_
  rw [BitVec.getLsbD_ushiftRight, getLsbD_bchEncode hc hw, if_neg (by omega), Nat.add_sub_cancel_left]

theorem bchEncode_and_mask (hc : c.wellFormed = true) (hw : w.toNat < 2 ^ c.dataLen) :
    bchEncode c w &&& mask (c.genLen - 1) = gf2Mod (w <<< (c.genLen - 1)) c.gen c.genLen := by
  have hrem := toNat_lt_two_pow_iff.mp (gf2Mod_lt (divisorOk_of_wellFormed hc) (w <<< (c.genLen - 1)))
  refine BitVec.eq_of_getLsbD_eq fun k hk16 => ?_
  rw [BitVec.getLsbD_and, getLsbD_mask, getLsbD_bchEncode hc hw]
  by_cases hk : k < c.genLen - 1
  · simp [hk, hk16]
  · simp [hk, hrem k (by omega)]

theorem bchEncode_inj (hc : c.wellFormed = true) {w' : Value} (hw : w.toNat < 2 ^ c.dataLen)
    (hw' : w'.toNat < 2 ^ c.dataLen) (h : bchEncode c w = bchEncode c w') : w = w' := by
  rw [← bchEncode_ushiftRight hc hw, h, bchEncode_ushiftRight hc hw']

theorem syndrome_xor (hc : c.wellFormed = true) (v e : Value) :
    syndrome c (v ^^^ e) = syndrome c v ^^^ syndrome c e :=
  gf2Mod_xor (divisorOk_of_wellFormed hc) v e

/-- The remainder in a codeword's low bits is its own remainder, so it cancels that of the shifted word (R124). -/
theorem syndrome_bchEncode (hc : c.wellFormed = true) (w : Value) : syndrome c (bchEncode c w) = 0 := by
  have hok := divisorOk_of_wellFormed hc
  obtain ⟨h1, h16, -, -⟩ := lengths_of_wellFormed hc
  rw [bchEncode, syndrome_xor hc, syndrome, syndrome, gf2Mod_eq_self h1 h16 (gf2Mod_lt hok _), BitVec.xor_self]
  rfl

/-- The syndrome of a received pattern does not depend on the codeword that was sent (R128). -/
theorem syndrome_bchEncode_xor (hc : c.wellFormed = true) (w e : Value) :
    syndrome c (bchEncode c w ^^^ e) = syndrome c e := by
  rw [syndrome_xor hc, syndrome_bchEncode hc]
  exact BitVec.zero_xor

end

/-! ## The positions at which two values differ (R141) -/

/-- The positions the distance counts. -/
def differingPositions (a b : Value) : Finset Nat := (Finset.range 16).filter fun k => a.getLsbD k ≠ b.getLsbD k

theorem mem_differingPositions {a b : Value} {k : Nat} :
    k ∈ differingPositions a b ↔ a.getLsbD k ≠ b.getLsbD k := by
  simp only [differingPositions, Finset.mem_filter, Finset.mem_range, and_iff_right_iff_imp]
  intro hne
  by_contra hk
  exact hne (by rw [BitVec.getLsbD_of_ge a k (by omega), BitVec.getLsbD_of_ge b k (by omega)])

theorem countDiff_eq_card (a b : Value) (n : Nat) :
    countDiff a b n = ((Finset.range n).filter fun k => a.getLsbD k ≠ b.getLsbD k).card := by
  induction n with
  | zero => rfl
  | succ n ih =>
    rw [countDiff, ih, Finset.range_add_one, Finset.filter_insert]
    by_cases h : a.getLsbD n = b.getLsbD n <;> simp [h]

theorem toNat_hamming (a b : Value) : (hamming a b).toNat = (differingPositions a b).card := by
  have hle : (differingPositions a b).card ≤ (Finset.range 16).card := Finset.card_filter_le _ _
  rw [Finset.card_range] at hle
  rw [hamming, BitVec.toNat_ofNat, countDiff_eq_card]
  exact Nat.mod_eq_of_lt (Nat.lt_of_le_of_lt hle (by decide))

theorem getLsbD_one_shiftLeft {i : Nat} (hi : i < 16) (k : Nat) : ((1 : Value) <<< i).getLsbD k = decide (i = k) := by
  have h : (BitVec.twoPow 16 i).getLsbD k = (decide (i < 16) && decide (i = k)) := BitVec.getLsbD_twoPow i k
  rwa [decide_eq_true hi, Bool.true_and] at h

/-- Flipping a bit at which two values differ takes that position, and no other, off their difference. -/
theorem differingPositions_flip {a b : Value} {i : Nat} (h : i ∈ differingPositions a b) :
    differingPositions (a ^^^ ((1 : Value) <<< i)) b = (differingPositions a b).erase i := by
  have hi : i < 16 := Finset.mem_range.mp (Finset.mem_filter.mp h).1
  rw [mem_differingPositions] at h
  ext k
  rw [Finset.mem_erase, mem_differingPositions, mem_differingPositions, BitVec.getLsbD_xor, getLsbD_one_shiftLeft hi]
  by_cases hk : k = i
  · subst hk
    simpa using h
  · simp [hk, Ne.symm hk]

theorem exists_mem_differingPositions {a b : Value} (h : a ≠ b) : ∃ i, i ∈ differingPositions a b := by
  by_contra! hnone
  exact h (BitVec.eq_of_getLsbD_eq fun k _ => of_not_not (mt mem_differingPositions.mpr (hnone k)))

theorem lt_of_mem_differingPositions {a b : Value} {m i : Nat} (ha : a.toNat < 2 ^ m) (hb : b.toNat < 2 ^ m)
    (hi : i ∈ differingPositions a b) : i < m := by
  by_contra hm
  rw [mem_differingPositions, toNat_lt_two_pow_iff.mp ha i (by omega), toNat_lt_two_pow_iff.mp hb i (by omega)] at hi
  exact hi rfl

theorem xor_one_shiftLeft_lt {a : Value} {m i : Nat} (ha : a.toNat < 2 ^ m) (hi : i < m) :
    (a ^^^ ((1 : Value) <<< i)).toNat < 2 ^ m := by
  have hbit : ((1 : Value) <<< i).toNat < 2 ^ m := by
    rw [BitVec.toNat_shiftLeft, Nat.shiftLeft_eq]
    exact (Nat.mod_le _ _).trans_lt (by simpa using Nat.pow_lt_pow_right (by decide) hi)
  exact BitVec.toNat_xor .. ▸ Nat.xor_lt_two_pow ha hbit

/-- Two different values of `m` bits come one step closer when some bit below `m` is flipped in one of them. -/
theorem exists_flip_hamming {m : Nat} {a b : Value} (ha : a.toNat < 2 ^ m) (hb : b.toNat < 2 ^ m) (h : a ≠ b) :
    ∃ i < m, (hamming a b).toNat = (hamming (a ^^^ ((1 : Value) <<< i)) b).toNat + 1 := by
  obtain ⟨i, hi⟩ := exists_mem_differingPositions h
  refine ⟨i, lt_of_mem_differingPositions ha hb hi, ?_⟩
  rw [toNat_hamming, toNat_hamming, differingPositions_flip hi, Finset.card_erase_add_one hi]

/-! ## This block's single-bit syndromes and its minimum distance (R125, R129) -/

theorem syndrome_one_shiftLeft_ne_zero : ∀ i < 15, syndrome Config.cfg ((1 : Value) <<< i) ≠ 0 := by decide

/-- The table of 95_test_vectors.md section 2, without the zero pattern. -/
theorem syndrome_one_shiftLeft_table : (List.range 15).map (fun i => syndrome Config.cfg ((1 : Value) <<< i)) =
    [0x1, 0x2, 0x4, 0x8, 0x3, 0x6, 0xC, 0xB, 0x5, 0xA, 0x7, 0xE, 0xF, 0xD, 0x9] := by decide

theorem syndrome_one_shiftLeft_inj {i j : Nat} (hi : i < 15) (hj : j < 15)
    (h : syndrome Config.cfg ((1 : Value) <<< i) = syndrome Config.cfg ((1 : Value) <<< j)) : i = j := by
  have hnodup : ((List.range 15).map fun i => syndrome Config.cfg ((1 : Value) <<< i)).Nodup := by
    rw [syndrome_one_shiftLeft_table]
    decide
  exact List.inj_on_of_nodup_map hnodup (List.mem_range.mpr hi) (List.mem_range.mpr hj) h

/-- Two patterns of the code's length with one syndrome are at least 3 apart: flipping a single bit changes the
syndrome, and flipping a second one only restores it if it is the same bit. -/
theorem three_le_hamming_of_syndrome_eq {a b : Value} (ha : a.toNat < 2 ^ 15) (hb : b.toNat < 2 ^ 15) (hne : a ≠ b)
    (hsyn : syndrome Config.cfg a = syndrome Config.cfg b) : 3 ≤ (hamming a b).toNat := by
  obtain ⟨i, hi, hdist⟩ := exists_flip_hamming ha hb hne
  have ha1 := xor_one_shiftLeft_lt ha hi
  have hne1 : a ^^^ ((1 : Value) <<< i) ≠ b := by
    intro heq
    have hsyn1 := congrArg (syndrome Config.cfg) heq
    rw [syndrome_xor cfg_wellFormed, hsyn, xor_left_eq_self_iff] at hsyn1
    exact syndrome_one_shiftLeft_ne_zero i hi hsyn1
  obtain ⟨j, hj, hdist1⟩ := exists_flip_hamming ha1 hb hne1
  have hne2 : a ^^^ ((1 : Value) <<< i) ^^^ ((1 : Value) <<< j) ≠ b := by
    intro heq
    have hsyn2 := congrArg (syndrome Config.cfg) heq
    rw [syndrome_xor cfg_wellFormed, syndrome_xor cfg_wellFormed, hsyn, BitVec.xor_assoc,
      xor_left_eq_self_iff] at hsyn2
    obtain rfl := syndrome_one_shiftLeft_inj hi hj (BitVec.xor_eq_zero_iff.mp hsyn2)
    exact hne ((xor_cancel_right a _).symm.trans heq)
  obtain ⟨k, -, hdist2⟩ := exists_flip_hamming (xor_one_shiftLeft_lt ha1 hj) hb hne2
  omega

/-! ## ENC and SYN as commands (R122, R127) -/

theorem bchEncode_zero : bchEncode Config.cfg 0x0000 = 0x0000 := by decide

theorem bchEncode_one : bchEncode Config.cfg 0x0001 = 0x0013 := by decide

theorem rangeCheck_eq_range {k : Nat} {v : Value} (h : 2 ^ k ≤ v.toNat) : rangeCheck k v = some .range := by
  have hne : rangeCheck k v ≠ none := mt rangeCheck_eq_none.mp h.not_gt
  unfold rangeCheck at hne ⊢
  exact if_neg fun hzero => hne (if_pos hzero)

/-! ## The obligations -/

/-- Settles O3: the RANGE check decides how ENC ends. -/
theorem encFollowsItsRule : Obligations.EncFollowsItsRule :=
  ⟨rfl, decode_encode .enc, fun _ =>
    ⟨fun h => exec_of_check_eq_none (i := .enc) (rangeCheck_eq_none.mpr h),
      fun h => exec_of_check_eq_some (i := .enc) (rangeCheck_eq_range h)⟩,
    bchEncode_zero, by decide, bchEncode_one⟩

/-- Settles O4: the RANGE check decides how SYN ends, and the corner cases are laws of the remainder. -/
theorem synFollowsItsRule : Obligations.SynFollowsItsRule :=
  ⟨rfl, decode_encode .syn, fun _ =>
    ⟨fun h => exec_of_check_eq_none (i := .syn) (rangeCheck_eq_none.mpr h),
      fun h => exec_of_check_eq_some (i := .syn) (rangeCheck_eq_range h)⟩,
    fun w _ => syndrome_bchEncode cfg_wellFormed w, fun _ => gf2Mod_eq_self (n := 5) (by decide) (by decide),
    by decide, by decide, by decide⟩

/-- Settles O15, by the bits of the codeword. -/
theorem encodingIsSystematic : Obligations.EncodingIsSystematic := fun _ _ hc hw =>
  ⟨bchEncode_ushiftRight hc hw, bchEncode_and_mask hc hw⟩

/-- Settles O16: the codeword ENC leaves in RES passes SYN's check, and its syndrome is 0. -/
theorem encodedWordHasZeroSyndrome : Obligations.EncodedWordHasZeroSyndrome :=
  ⟨fun _ w hc _ => syndrome_bchEncode hc w, fun s hopa =>
    ⟨_, _, exec_of_check_eq_none (i := .enc) (rangeCheck_eq_none.mpr hopa), rfl,
      exec_of_check_eq_none (i := .syn) (rangeCheck_eq_none.mpr (bchEncode_lt cfg_wellFormed hopa)), rfl,
      syndrome_bchEncode cfg_wellFormed s.block.opa⟩⟩

/-- Settles O17: a codeword's high bits are its word, all codewords have one syndrome, and encode(0) and encode(1)
are 3 apart. -/
theorem minimumDistanceIsThree : Obligations.MinimumDistanceIsThree := by
  refine ⟨fun _ _ => bchEncode_inj cfg_wellFormed, fun w w' hw hw' hne => ?_,
    0, 1, by decide, by decide, by decide, by rw [bchEncode_zero, bchEncode_one]; decide⟩
  refine three_le_hamming_of_syndrome_eq (bchEncode_lt cfg_wellFormed hw) (bchEncode_lt cfg_wellFormed hw')
    (mt (bchEncode_inj cfg_wellFormed hw hw') hne) ?_
  rw [syndrome_bchEncode cfg_wellFormed, syndrome_bchEncode cfg_wellFormed]

/-- Settles O18: the syndrome is linear and a codeword's is 0. -/
theorem syndromeSeesOnlyTheError : Obligations.SyndromeSeesOnlyTheError := by
  refine fun c w e hc _ _ => ⟨syndrome_bchEncode_xor hc w e, ?_⟩
  rintro ⟨x, -, rfl⟩
  rw [syndrome_bchEncode_xor hc, syndrome_bchEncode hc]

/-- Settles O20: the received pattern's syndrome is that of the flipped position, and flipping a position cancels it
exactly when the two positions have one syndrome. -/
theorem singleErrorIsCorrectable : Obligations.SingleErrorIsCorrectable := by
  intro w i j hw hi hj
  rw [syndrome_xor cfg_wellFormed _ ((1 : Value) <<< j), syndrome_bchEncode_xor cfg_wellFormed]
  refine ⟨syndrome_one_shiftLeft_ne_zero i hi, ⟨syndrome_one_shiftLeft_inj hi hj, fun h => h ▸ rfl⟩,
    fun hsyn => ?_, fun ⟨_, hzero⟩ => BitVec.xor_eq_zero_iff.mp hzero⟩
  obtain rfl := syndrome_one_shiftLeft_inj hi hj hsyn
  rw [xor_cancel_right, BitVec.xor_self]
  exact ⟨bchEncode_ushiftRight cfg_wellFormed hw, rfl⟩

/-- Settles O19, by the two facts about this block's single-bit syndromes. -/
theorem singleErrorSyndromesDiffer : Obligations.SingleErrorSyndromesDiffer := fun i hi =>
  ⟨syndrome_one_shiftLeft_ne_zero i hi, fun _ hj => syndrome_one_shiftLeft_inj hi hj⟩

end Sys2Proof.Machine


/-! # Proofs: the Hamming family (42_hamming.md)

The distance is the number of positions in `differingPositions` (`toNat_hamming`), so each law of the distance is one
about that set: first those laws, then what they say of `hamming`, then the obligations. -/

namespace Sys2Proof.Machine

/-! ## The laws of the differing positions -/

section
variable (a b c : Value)

/-- Two values differ exactly where their XOR has a 1 (R141). -/
theorem differingPositions_eq_ones_of_xor :
    differingPositions a b = (Finset.range 16).filter fun k => (a ^^^ b).getLsbD k = true :=
  Finset.filter_congr fun k _ => by rw [BitVec.getLsbD_xor, bne_iff_ne]

theorem differingPositions_self : differingPositions a a = ∅ := by
  simp [differingPositions]

theorem differingPositions_comm : differingPositions a b = differingPositions b a := by
  simp only [differingPositions, ne_comm]

theorem differingPositions_xor_zero : differingPositions (a ^^^ b) 0 = differingPositions a b := by
  have hzero : a ^^^ b ^^^ 0 = a ^^^ b := BitVec.xor_zero
  rw [differingPositions_eq_ones_of_xor, differingPositions_eq_ones_of_xor, hzero]

/-- Where `b` agrees with both `a` and `c`, these two agree. -/
theorem differingPositions_subset_union :
    differingPositions a c ⊆ differingPositions a b ∪ differingPositions b c := by
  intro k
  rw [Finset.mem_union, mem_differingPositions, mem_differingPositions, mem_differingPositions]
  contrapose!
  rintro ⟨hab, hbc⟩
  exact hab.trans hbc

/-! ## The laws of the distance (R143, R144) -/

theorem hamming_congr {a b c d : Value} (h : differingPositions a b = differingPositions c d) :
    hamming a b = hamming c d :=
  BitVec.eq_of_toNat_eq (by rw [toNat_hamming, toNat_hamming, h])

theorem hamming_self : hamming a a = 0 :=
  BitVec.eq_of_toNat_eq (by rw [toNat_hamming, differingPositions_self]; rfl)

theorem eq_of_hamming_eq_zero {a b : Value} (h : hamming a b = 0) : a = b := by
  by_contra hne
  obtain ⟨i, hi⟩ := exists_mem_differingPositions hne
  have hpos : 0 < (hamming a b).toNat := toNat_hamming a b ▸ Finset.card_pos.mpr ⟨i, hi⟩
  exact hpos.ne' (congrArg BitVec.toNat h)

theorem hamming_triangle : (hamming a c).toNat ≤ (hamming a b).toNat + (hamming b c).toNat := by
  simp only [toNat_hamming]
  calc (differingPositions a c).card
      ≤ (differingPositions a b ∪ differingPositions b c).card :=
        Finset.card_le_card (differingPositions_subset_union a b c)
    _ ≤ (differingPositions a b).card + (differingPositions b c).card := Finset.card_union_le _ _

/-- Values of `m` bits differ at `m` positions at most. -/
theorem hamming_le_of_lt {a b : Value} {m : Nat} (ha : a.toNat < 2 ^ m) (hb : b.toNat < 2 ^ m) :
    (hamming a b).toNat ≤ m := by
  have hsub : differingPositions a b ⊆ Finset.range m := fun _ hk =>
    Finset.mem_range.mpr (lt_of_mem_differingPositions ha hb hk)
  simpa only [toNat_hamming, Finset.card_range] using Finset.card_le_card hsub

theorem hamming_le_sixteen : (hamming a b).toNat ≤ 16 := hamming_le_of_lt a.isLt b.isLt

end

/-! ## The obligations -/

/-- Settles O5: HDIST has no operand check to fail, and its result counts the differing positions. -/
theorem hdistFollowsItsRule : Obligations.HdistFollowsItsRule :=
  ⟨rfl, decode_encode .hdist, fun s =>
    ⟨hamming s.block.opa s.block.opb, toNat_hamming _ _, exec_of_check_eq_none (i := .hdist) rfl⟩⟩

/-- Settles O21: the differing positions are the 1 bits of the XOR. -/
theorem hammingIsPopcountOfXor : Obligations.HammingIsPopcountOfXor := fun a b =>
  ⟨by rw [toNat_hamming, differingPositions_eq_ones_of_xor], hamming_le_sixteen a b⟩

/-- Settles O22, by the laws of the differing positions. -/
theorem hammingIsAMetric : Obligations.HammingIsAMetric := fun x y z =>
  ⟨hamming_self x, hamming_congr (differingPositions_comm x y), eq_of_hamming_eq_zero, hamming_triangle x y z,
    (hamming_congr (differingPositions_xor_zero x y)).symm, hamming_le_sixteen x y⟩

/-- Settles O23: bit 15 of two such values never differs, and 0x5555 and 0xAAAA differ everywhere. -/
theorem codewordDistanceIsAtMostFifteen : Obligations.CodewordDistanceIsAtMostFifteen :=
  ⟨fun _ _ => hamming_le_of_lt, 0x5555, 0xAAAA, by decide⟩

end Sys2Proof.Machine


/-! # Proofs: the exceptions family (60_exceptions.md)

First a command refused by its operand check, how each event leaves STICKY, and which runs hold a refused command, one
event at a time; then, by induction over the host's queue, what a whole batch leaves in STICKY. Then the obligations. -/

namespace Sys2Proof.Machine

/-! ## A refused command (R161, R162) -/

/-- A command whose operand check fails is refused with that check's error, and its write answered as any other. -/
theorem step_cmd_of_check_eq_some {i : Instr} {b : Block} {e : CmdError} (h : operandCheck i b = some e)
    (q : List HostEvent) (rs : List Response) : step ⟨b, cmd i :: q, rs⟩ = .next ⟨refuse e b, q, rs ++ [.done]⟩ := by
  have hblock : specRunCommand (encode i) b = refuse e b := by
    rw [← commandAfter_eq_specRunCommand, commandAfter_encode, h, finish_some]
  rw [← hblock]
  exact step_cmd_write_eq_next (encode i) b q rs

/-! ## STICKY over one event (R165) -/

/-- A command raises STICKY exactly when it is refused, which is when it leaves ERR set. -/
theorem commandAfter_sticky_iff (w : Word) (b : Block) :
    (commandAfter w b).sticky = true ↔ b.sticky = true ∨ (commandAfter w b).err = true := by
  rcases commandAfter_cases w b with ⟨e, h⟩ | ⟨i, -, -, h⟩ <;> simp [h]

/-- Where nothing clears STICKY, it is set after an event if it was before, or the event is a refused command. -/
theorem blockAfter_sticky_iff {e : HostEvent} (he : e ≠ .reset) (hclr : ¬ ClearsSticky e) (b : Block) :
    (blockAfter e b).sticky = true ↔ b.sticky = true ∨ (IsCommand e ∧ (blockAfter e b).err = true) := by
  by_cases hcmd : IsCommand e
  · simp only [hcmd, true_and]
    obtain ⟨w, rfl⟩ := hcmd
    exact commandAfter_sticky_iff w b
  · obtain ⟨-, -, hsticky, -⟩ := blockAfter_keeps_status hcmd hclr he b
    simp [hcmd, hsticky]

/-! ## Refused commands over a queue (R207) -/

/-- Some CMD write of the host's queue leaves ERR set right after it, in the run from `s`. -/
def RefusesSomeCommand (s : State) : Prop :=
  ∃ (k : Nat) (e : HostEvent) (u : State), s.hostQueue[k]? = some e ∧ IsCommand e ∧
    Host.Core.run Sys2Proof.core (k + 1) s = .next u ∧ u.block.err = true

section
variable (b : Block) (rs : List Response)

theorem not_refusesSomeCommand_nil : ¬ RefusesSomeCommand ⟨b, [], rs⟩ := by
  rintro ⟨k, e, u, hk, -⟩
  simp at hk

/-- The refused command is the first event, or one of the run that goes on after it. -/
theorem refusesSomeCommand_cons (e : HostEvent) (q : List HostEvent) :
    RefusesSomeCommand ⟨b, e :: q, rs⟩ ↔
      (IsCommand e ∧ (blockAfter e b).err = true) ∨
        RefusesSomeCommand ⟨blockAfter e b, q, rs ++ answerTo e b⟩ := by
  constructor
  · rintro ⟨k, e', u, hk, hcmd, hrun, herr⟩
    rw [core_run_cons] at hrun
    cases k with
    | zero => cases hk; cases hrun; exact .inl ⟨hcmd, herr⟩
    | succ k => exact .inr ⟨k, e', u, hk, hcmd, hrun, herr⟩
  · rintro (⟨hcmd, herr⟩ | ⟨k, e', u, hk, hcmd, hrun, herr⟩)
    · exact ⟨0, e, _, rfl, hcmd, core_run_cons 0 b e q rs, herr⟩
    · exact ⟨k + 1, e', u, hk, hcmd, (core_run_cons (k + 1) b e q rs).trans hrun, herr⟩

/-- What a batch with no reset and no clear leaves in STICKY, from either value of it. -/
theorem sticky_after_run_iff {q : List HostEvent} (hq : ∀ e ∈ q, e ≠ .reset ∧ ¬ ClearsSticky e) {t : State}
    (hrun : Host.Core.run Sys2Proof.core q.length (⟨b, q, rs⟩ : State) = .next t) :
    t.block.sticky = true ↔ b.sticky = true ∨ RefusesSomeCommand ⟨b, q, rs⟩ := by
  induction q generalizing b rs with
  | nil =>
    cases hrun
    simp [not_refusesSomeCommand_nil]
  | cons e q ih =>
    obtain ⟨⟨he, hclr⟩, hq⟩ := List.forall_mem_cons.mp hq
    rw [List.length_cons, core_run_cons] at hrun
    rw [ih _ _ hq hrun, blockAfter_sticky_iff he hclr, refusesSomeCommand_cons, or_assoc]

end

/-! ## The obligations -/

/-- Settles O44: from STICKY = 0 only a refused command of the batch can have set it. -/
theorem stickySummarisesABatch : Obligations.StickySummarisesABatch := by
  rintro ⟨b, q, rs⟩ t hsticky hq hrun
  rw [sticky_after_run_iff b rs hq hrun]
  exact or_iff_right (Bool.eq_false_iff.mp hsticky)

/-- Settles O29: the reserved bits come before the opcode, and MOD's LEN check before its divisor check. -/
theorem errorPriorityExamples : Obligations.ErrorPriorityExamples := fun b =>
  ⟨⟨_, step_cmd_write_of_error (w := 0x00000017) (e := .rsvd) rfl b [] [], rfl⟩, fun hn _ =>
    have hlen : operandCheck .mod b = some .len := modCheck_eq_len (.inl (congrArg BitVec.toNat hn))
    ⟨_, step_cmd_of_check_eq_some hlen [] [], rfl⟩⟩

end Sys2Proof.Machine


/-! # Proofs: the reset and hazards family (70_reset_and_hazards.md)

First a whole host sequence at once: the block it leads to and the answers it gets, and the run in those terms, by
induction over the queue. Then one write with its response, the commands on the reset values, and what a step adds to
the observation. Then the obligations. -/

namespace Sys2Proof.Machine

/-! ## Whole runs (R62, R209, R210) -/

/-- The block after a sequence of events. -/
def blockAfterAll (q : List HostEvent) (b : Block) : Block := q.foldl (fun c e => blockAfter e c) b

/-- The answers to a sequence of events, each event's from the block the earlier ones have reached. -/
def answersTo : List HostEvent → Block → List Response
  | [], _ => []
  | e :: q, b => answerTo e b ++ answersTo q (blockAfter e b)

/-- As many steps as `q₁` has events perform exactly these; what waits behind them goes on waiting. -/
theorem core_run_queue (q₁ q₂ : List HostEvent) (b : Block) (rs : List Response) :
    Host.Core.run Sys2Proof.core q₁.length (⟨b, q₁ ++ q₂, rs⟩ : State) =
      .next (⟨blockAfterAll q₁ b, q₂, rs ++ answersTo q₁ b⟩ : State) := by
  induction q₁ generalizing b rs with
  | nil => simp [blockAfterAll, answersTo]
  | cons e q₁ ih =>
    rw [List.length_cons, List.cons_append, core_run_cons, ih, List.append_assoc]
    rfl

/-- A run over the whole queue ends with nothing waiting. -/
theorem core_run_all (q : List HostEvent) (b : Block) (rs : List Response) :
    Host.Core.run Sys2Proof.core q.length (⟨b, q, rs⟩ : State) =
      .next (⟨blockAfterAll q b, [], rs ++ answersTo q b⟩ : State) := by
  simpa using core_run_queue q [] b rs

/-- An access has one answer, a reset none (R200). -/
theorem length_answerTo (e : HostEvent) (b : Block) : (answerTo e b).length = if e = .reset then 0 else 1 := by
  match e with
  | .reset => rfl
  | .access (.read off size) => cases h : admittedReg off size <;> simp [answerTo, h]
  | .access (.write off size v) => cases h : admittedReg off size <;> simp [answerTo, h]

theorem length_answersTo (q : List HostEvent) (b : Block) :
    (answersTo q b).length = (q.filter (fun e => decide (e ≠ .reset))).length := by
  induction q generalizing b with
  | nil => rfl
  | cons e q ih =>
    rw [answersTo, List.length_append, length_answerTo, ih]
    by_cases he : e = .reset
    · simp [he]
    · simp [he, Nat.add_comm]

/-! ## One write, and the commands on the reset values (R54, R203) -/

/-- A write to any register, CMD among them, is answered with the normal response. -/
theorem step_sw (r : Reg) (v : Word) (b : Block) (q : List HostEvent) (rs : List Response) :
    step ⟨b, sw r v :: q, rs⟩ = .next ⟨blockAfter (sw r v) b, q, rs ++ [.done]⟩ := by
  simp [step_cons, sw, answerTo]

/-- A command whose operand check passes completes with its result. -/
theorem step_cmd_of_check_eq_none {i : Instr} {b : Block} (h : operandCheck i b = none)
    (q : List HostEvent) (rs : List Response) :
    step ⟨b, cmd i :: q, rs⟩ = .next ⟨complete (resultOf i b) b, q, rs ++ [.done]⟩ := by
  have hblock : blockAfter (cmd i) b = complete (resultOf i b) b := by
    rw [cmd, sw, blockAfter_command, commandAfter_encode, h, finish_none]
  rw [← hblock]
  exact step_sw .cmd (encode i) b q rs

/-- On the reset values every command but MOD passes its operand check. -/
theorem operandCheck_reset {i : Instr} (hi : i ≠ .mod) : operandCheck i Block.reset = none := by
  cases i
  case mask => exact maskCheck_eq_none.mpr (Nat.zero_le 16)
  case mod => exact absurd rfl hi
  case enc => exact rangeCheck_eq_none.mpr (by decide)
  case syn => exact rangeCheck_eq_none.mpr (by decide)
  case hdist => rfl

/-- On the reset values every command but MOD gives zero. -/
theorem resultOf_reset {i : Instr} (hi : i ≠ .mod) : resultOf i Block.reset = 0 := by
  cases i
  case mask => rfl
  case mod => exact absurd rfl hi
  case enc => exact bchEncode_zero
  case syn => exact gf2Mod_zero Config.cfg.gen (n := Config.cfg.genLen) (by decide) (by decide)
  case hdist => exact hamming_self 0

/-! ## The observation (R211) -/

/-- The observation of a state whose answers are earlier ones and then new ones. -/
theorem observation_append (b c : Block) (q p : List HostEvent) (rs new : List Response) :
    observation ⟨c, p, rs ++ new⟩ = ⟨(observation ⟨b, q, rs⟩).answers ++ observedAnswers new, c⟩ :=
  congrArg (Observation.mk · c) (observedAnswers_append rs new)

/-! ## The obligations -/

/-- Settles O46: a run over the queue empties it, and gives one answer for each event that is no reset. -/
theorem everyAccessIsAnswered : Obligations.EveryAccessIsAnswered := fun ⟨b, q, rs⟩ =>
  ⟨_, _, core_run_all q b rs, rfl, rfl, length_answersTo q b⟩

/-- Settles O51: the run over both sequences goes on from where the first has ended, with its answers kept. -/
theorem runObservationsCompose : Obligations.RunObservationsCompose := by
  intro b q₁ q₂ t₁ t₂ h₁ h₂
  obtain rfl := Host.Outcome.next.inj ((core_run_all q₁ b []).symm.trans h₁)
  obtain rfl := Host.Outcome.next.inj ((core_run_all q₂ _ []).symm.trans h₂)
  refine ⟨⟨blockAfterAll q₂ (blockAfterAll q₁ b), [], _⟩, ?_, rfl, observation_append _ _ [] [] _ _⟩
  rw [List.length_append, core_run_add (core_run_queue q₁ q₂ b [])]
  exact core_run_all q₂ _ _

/-- Settles O30: the four commands complete with 0 on the reset values, and MOD fails its LEN check on OPN = 0. -/
theorem commandsAfterReset : Obligations.CommandsAfterReset := by
  constructor
  · intro i hi
    have hstep := step_cmd_of_check_eq_none (operandCheck_reset hi) [] []
    rw [resultOf_reset hi] at hstep
    exact ⟨_, hstep, rfl⟩
  · have hlen : operandCheck .mod Block.reset = some .len := modCheck_eq_len (.inl rfl)
    exact ⟨_, step_cmd_of_check_eq_some hlen [] [], rfl⟩

/-- Settles O47: of the three answers a step can add, only the normal response of a write is not observed. -/
theorem observationIsWhatReadsReturn : Obligations.ObservationIsWhatReadsReturn := by
  refine ⟨fun b q rs r v => ⟨?read, ?write, fun off size h => ?refused⟩, fun s u => ?alike⟩
  case read => exact ⟨_, step_read r b q rs, observation_append b b q q rs [.data (readReg r b)]⟩
  case write =>
    refine ⟨_, step_sw r v b q rs, (observation_append b _ q q rs [.done]).trans ?_⟩
    rw [show observedAnswers [.done] = [] from rfl, List.append_nil]
  case refused =>
    have hnone := admittedReg_eq_none_of_not_mem h
    exact ⟨⟨_, step_read_of_not_admitted b q rs hnone, observation_append b b q q rs [.busError]⟩,
      ⟨_, step_write_of_not_admitted v b q rs hnone, observation_append b b q q rs [.busError]⟩⟩
  case alike => rw [observation, observation, Observation.mk.injEq, and_comm]

end Sys2Proof.Machine
